-- ==== Sys2Proof/Word.lean ====
section
/-! DEFINITION. The word types of the machine (spec/00_scope.md R7): every value is an unsigned integer of the
width its type says, and bit 0 is the least significant bit. -/

namespace Sys2Proof

/-- A general register, a timer, a byte of memory (R11, R16, R17). -/
abbrev Byte := BitVec 8

/-- The program counter, the index register, a stack slot, an instruction word (R13, R14, R15, R61). -/
abbrev Word := BitVec 16

/-- One 4-bit field of an instruction word (R62). -/
abbrev Nibble := BitVec 4

/-- The 12-bit address immediate `nnn` (R62, R64). -/
abbrev Addr12 := BitVec 12

/-- The number of a general register, V0 to VF; a 4-bit field, so no index is out of range (R11). -/
abbrev Reg := Fin 16

/-- VF, the register that doubles as the flag (R12). -/
abbrev VF : Reg := 15

end Sys2Proof
end

