-- ==== Sys2Proof/Syntax.lean ====
section
/-! DEFINITION. The 34 instructions of the opcode map (spec/30_encoding.md R66), in the map's order, one constructor
a row. Operands are the fields the row's format names (R63); immediates are unsigned and used as cut (R64). -/

namespace Sys2Proof

inductive Instr where
  /-- Row 1, `00E0`: CLS. -/
  | cls
  /-- Row 2, `00EE`: RET. -/
  | ret
  /-- Row 3, `1nnn`: JP nnn. -/
  | jp (nnn : Addr12)
  /-- Row 4, `2nnn`: CALL nnn. -/
  | call (nnn : Addr12)
  /-- Row 5, `3xnn`: SE Vx, nn. -/
  | seImm (x : Reg) (nn : Byte)
  /-- Row 6, `4xnn`: SNE Vx, nn. -/
  | sneImm (x : Reg) (nn : Byte)
  /-- Row 7, `5xy0`: SE Vx, Vy. -/
  | seReg (x y : Reg)
  /-- Row 8, `6xnn`: LD Vx, nn. -/
  | ldImm (x : Reg) (nn : Byte)
  /-- Row 9, `7xnn`: ADD Vx, nn. -/
  | addImm (x : Reg) (nn : Byte)
  /-- Row 10, `8xy0`: LD Vx, Vy. -/
  | ldReg (x y : Reg)
  /-- Row 11, `8xy1`: OR Vx, Vy. -/
  | orReg (x y : Reg)
  /-- Row 12, `8xy2`: AND Vx, Vy. -/
  | andReg (x y : Reg)
  /-- Row 13, `8xy3`: XOR Vx, Vy. -/
  | xorReg (x y : Reg)
  /-- Row 14, `8xy4`: ADD Vx, Vy. -/
  | addReg (x y : Reg)
  /-- Row 15, `8xy5`: SUB Vx, Vy. -/
  | sub (x y : Reg)
  /-- Row 16, `8xy6`: SHR Vx, Vy. -/
  | shr (x y : Reg)
  /-- Row 17, `8xy7`: SUBN Vx, Vy. -/
  | subn (x y : Reg)
  /-- Row 18, `8xyE`: SHL Vx, Vy. -/
  | shl (x y : Reg)
  /-- Row 19, `9xy0`: SNE Vx, Vy. -/
  | sneReg (x y : Reg)
  /-- Row 20, `Annn`: LD I, nnn. -/
  | ldI (nnn : Addr12)
  /-- Row 21, `Bnnn`: JP V0, nnn. The row has two fields, `nnn` and the `x` that overlaps its top nibble (R108);
  WellFormed.lean asks that they agree. -/
  | jpV0 (x : Reg) (nnn : Addr12)
  /-- Row 22, `Cxnn`: RND Vx, nn. -/
  | rnd (x : Reg) (nn : Byte)
  /-- Row 23, `Dxyn`: DRW Vx, Vy, n. -/
  | drw (x y : Reg) (n : Fin 16)
  /-- Row 24, `Ex9E`: SKP Vx. -/
  | skp (x : Reg)
  /-- Row 25, `ExA1`: SKNP Vx. -/
  | sknp (x : Reg)
  /-- Row 26, `Fx07`: LD Vx, DT. -/
  | ldVxDT (x : Reg)
  /-- Row 27, `Fx0A`: LD Vx, K. -/
  | ldVxK (x : Reg)
  /-- Row 28, `Fx15`: LD DT, Vx. -/
  | ldDTVx (x : Reg)
  /-- Row 29, `Fx18`: LD ST, Vx. -/
  | ldSTVx (x : Reg)
  /-- Row 30, `Fx1E`: ADD I, Vx. -/
  | addI (x : Reg)
  /-- Row 31, `Fx29`: LD F, Vx. -/
  | ldF (x : Reg)
  /-- Row 32, `Fx33`: LD B, Vx. -/
  | ldB (x : Reg)
  /-- Row 33, `Fx55`: LD [I], Vx. -/
  | storeRegs (x : Reg)
  /-- Row 34, `Fx65`: LD Vx, [I]. -/
  | loadRegs (x : Reg)
  deriving DecidableEq, Repr

end Sys2Proof
end

