-- ==== Sys2Proof/Decode.lean ====
section
/-! DEFINITION. The decoder and the encoder (spec/30_encoding.md sections 1 to 3, spec/20_memory.md R44).

`cut` is the spec's Decode: it produces all six fields of any word (R62). `dispatch` is the spec's Dispatch: a search
in the opcode map, whose rows match when every fixed nibble is equal (R65, R66). `decode` is the two together, total on
every word, and names what it rejects (R67, R69). -/

namespace Sys2Proof

/-- What the decoder answers for bytes that are no instruction. -/
inductive DecodeError where
  /-- The word matches no row of the opcode map (R67). -/
  | invalidOpcode (w : Word)
  /-- Fewer than the two bytes of a word are left (R61). -/
  | truncated
  deriving DecidableEq, Repr

/-- The six fields of a word (R62). -/
structure Fields where
  cls : Nibble
  x   : Nibble
  y   : Nibble
  n   : Nibble
  nn  : Byte
  nnn : Addr12
  deriving DecidableEq, Repr

/-- The spec's `Decode(w)`: class is bits 15:12, x 11:8, y 7:4, n 3:0, nn 7:0, nnn 11:0 (R62). -/
def cut (w : Word) : Fields where
  cls := w.extractLsb' 12 4
  x   := w.extractLsb' 8 4
  y   := w.extractLsb' 4 4
  n   := w.extractLsb' 0 4
  nn  := w.extractLsb' 0 8
  nnn := w.extractLsb' 0 12

/-- A register field selects `V[x]` directly (R64). -/
def regOf (b : Nibble) : Reg := b.toFin

/-- One row of the opcode map (R66): its number, its mnemonic in the table, its pattern as four nibbles (`none` is an
operand nibble, which matches anything), and the instruction the fields make. -/
structure OpRow where
  row      : Nat
  mnemonic : String
  cls      : Nibble
  x        : Option Nibble
  y        : Option Nibble
  n        : Option Nibble
  build    : Fields → Instr

/-- A fixed nibble must be equal, an operand nibble matches anything (R65). -/
def nibbleMatches (p : Option Nibble) (b : Nibble) : Bool :=
  match p with
  | none => true
  | some k => b == k

/-- "A row of rule R66 matches when every fixed nibble of its pattern equals the corresponding element of the tuple"
(R65). -/
def OpRow.matchesFields (r : OpRow) (f : Fields) : Bool :=
  f.cls == r.cls && nibbleMatches r.x f.x && nibbleMatches r.y f.y && nibbleMatches r.n f.n

/-- Rows 1 to 9 of R66. -/
def opcodeRowsLow : List OpRow := [
  ⟨1, "CLS", 0x0, some 0x0, some 0xE, some 0x0, fun _ => .cls⟩,
  ⟨2, "RET", 0x0, some 0x0, some 0xE, some 0xE, fun _ => .ret⟩,
  ⟨3, "JP_nnn", 0x1, none, none, none, fun f => .jp f.nnn⟩,
  ⟨4, "CALL_nnn", 0x2, none, none, none, fun f => .call f.nnn⟩,
  ⟨5, "SE_Vx__nn", 0x3, none, none, none, fun f => .seImm (regOf f.x) f.nn⟩,
  ⟨6, "SNE_Vx__nn", 0x4, none, none, none, fun f => .sneImm (regOf f.x) f.nn⟩,
  ⟨7, "SE_Vx__Vy", 0x5, none, none, some 0x0, fun f => .seReg (regOf f.x) (regOf f.y)⟩,
  ⟨8, "LD_Vx__nn", 0x6, none, none, none, fun f => .ldImm (regOf f.x) f.nn⟩,
  ⟨9, "ADD_Vx__nn", 0x7, none, none, none, fun f => .addImm (regOf f.x) f.nn⟩]

/-- Rows 10 to 19 of R66. -/
def opcodeRowsMid : List OpRow := [
  ⟨10, "LD_Vx__Vy", 0x8, none, none, some 0x0, fun f => .ldReg (regOf f.x) (regOf f.y)⟩,
  ⟨11, "OR_Vx__Vy", 0x8, none, none, some 0x1, fun f => .orReg (regOf f.x) (regOf f.y)⟩,
  ⟨12, "AND_Vx__Vy", 0x8, none, none, some 0x2, fun f => .andReg (regOf f.x) (regOf f.y)⟩,
  ⟨13, "XOR_Vx__Vy", 0x8, none, none, some 0x3, fun f => .xorReg (regOf f.x) (regOf f.y)⟩,
  ⟨14, "ADD_Vx__Vy", 0x8, none, none, some 0x4, fun f => .addReg (regOf f.x) (regOf f.y)⟩,
  ⟨15, "SUB_Vx__Vy", 0x8, none, none, some 0x5, fun f => .sub (regOf f.x) (regOf f.y)⟩,
  ⟨16, "SHR_Vx__Vy", 0x8, none, none, some 0x6, fun f => .shr (regOf f.x) (regOf f.y)⟩,
  ⟨17, "SUBN_Vx__Vy", 0x8, none, none, some 0x7, fun f => .subn (regOf f.x) (regOf f.y)⟩,
  ⟨18, "SHL_Vx__Vy", 0x8, none, none, some 0xE, fun f => .shl (regOf f.x) (regOf f.y)⟩,
  ⟨19, "SNE_Vx__Vy", 0x9, none, none, some 0x0, fun f => .sneReg (regOf f.x) (regOf f.y)⟩]

/-- Rows 20 to 34 of R66. -/
def opcodeRowsHigh : List OpRow := [
  ⟨20, "LD_I__nnn", 0xA, none, none, none, fun f => .ldI f.nnn⟩,
  ⟨21, "JP_V0__nnn", 0xB, none, none, none, fun f => .jpV0 (regOf f.x) f.nnn⟩,
  ⟨22, "RND_Vx__nn", 0xC, none, none, none, fun f => .rnd (regOf f.x) f.nn⟩,
  ⟨23, "DRW_Vx__Vy__n", 0xD, none, none, none, fun f => .drw (regOf f.x) (regOf f.y) f.n.toFin⟩,
  ⟨24, "SKP_Vx", 0xE, none, some 0x9, some 0xE, fun f => .skp (regOf f.x)⟩,
  ⟨25, "SKNP_Vx", 0xE, none, some 0xA, some 0x1, fun f => .sknp (regOf f.x)⟩,
  ⟨26, "LD_Vx__DT", 0xF, none, some 0x0, some 0x7, fun f => .ldVxDT (regOf f.x)⟩,
  ⟨27, "LD_Vx__K", 0xF, none, some 0x0, some 0xA, fun f => .ldVxK (regOf f.x)⟩,
  ⟨28, "LD_DT__Vx", 0xF, none, some 0x1, some 0x5, fun f => .ldDTVx (regOf f.x)⟩,
  ⟨29, "LD_ST__Vx", 0xF, none, some 0x1, some 0x8, fun f => .ldSTVx (regOf f.x)⟩,
  ⟨30, "ADD_I__Vx", 0xF, none, some 0x1, some 0xE, fun f => .addI (regOf f.x)⟩,
  ⟨31, "LD_F__Vx", 0xF, none, some 0x2, some 0x9, fun f => .ldF (regOf f.x)⟩,
  ⟨32, "LD_B__Vx", 0xF, none, some 0x3, some 0x3, fun f => .ldB (regOf f.x)⟩,
  ⟨33, "LD__I___Vx", 0xF, none, some 0x5, some 0x5, fun f => .storeRegs (regOf f.x)⟩,
  ⟨34, "LD_Vx___I", 0xF, none, some 0x6, some 0x5, fun f => .loadRegs (regOf f.x)⟩]

/-- The opcode map (R66). -/
def opcodeMap : List OpRow := opcodeRowsLow ++ opcodeRowsMid ++ opcodeRowsHigh

/-- The spec's Dispatch, on the tuple of fields: the row that matches, if there is one (R65). -/
def dispatch (f : Fields) : Option OpRow :=
  opcodeMap.find? (fun r => r.matchesFields f)

/-- Cut, then dispatch: total on all words, rejecting by name (R60, R65, R69). -/
def decode (w : Word) : Except DecodeError Instr :=
  match dispatch (cut w) with
  | some r => .ok (r.build (cut w))
  | none => .error (.invalidOpcode w)

/-- The instruction word is `mem[pc] ++ mem[pc + 1]`, the high byte at the lower address (R44). -/
def wordOfBytes (hi lo : Byte) : Word := hi ++ lo

/-- The bytes of a word as memory holds them, the lower address first (R44). -/
def bytesOfWord (w : Word) : List Byte := [w.extractLsb' 8 8, w.extractLsb' 0 8]

/-- Decode the first instruction of a list of bytes and hand back the rest; every instruction is two bytes (R61). -/
def decodeBytes : List Byte → Except DecodeError (Instr × List Byte)
  | hi :: lo :: rest =>
    match decode (wordOfBytes hi lo) with
    | .ok i => .ok (i, rest)
    | .error e => .error e
  | _ => .error .truncated

/-- The 4-bit field that names a register (R62). -/
def nibOf (r : Reg) : Nibble := BitVec.ofFin r

/-- A word of format NNN: class, then the address (R63). -/
def wordNNN (c : Nibble) (nnn : Addr12) : Word := c ++ nnn

/-- A word of format XNN: class, x, then the immediate (R63). -/
def wordXNN (c : Nibble) (x : Reg) (nn : Byte) : Word := c ++ nibOf x ++ nn

/-- A word of format XY or XYN: class, x, y and the last nibble (R63). -/
def wordXYN (c : Nibble) (x y : Reg) (n : Nibble) : Word := c ++ nibOf x ++ nibOf y ++ n

/-- The encoder, from the patterns of R66. Of JP V0's two fields only `nnn` has bits of its own (R108). -/
def encode : Instr → Word
  | .cls => 0x00E0
  | .ret => 0x00EE
  | .jp nnn => wordNNN 0x1 nnn
  | .call nnn => wordNNN 0x2 nnn
  | .seImm x nn => wordXNN 0x3 x nn
  | .sneImm x nn => wordXNN 0x4 x nn
  | .seReg x y => wordXYN 0x5 x y 0x0
  | .ldImm x nn => wordXNN 0x6 x nn
  | .addImm x nn => wordXNN 0x7 x nn
  | .ldReg x y => wordXYN 0x8 x y 0x0
  | .orReg x y => wordXYN 0x8 x y 0x1
  | .andReg x y => wordXYN 0x8 x y 0x2
  | .xorReg x y => wordXYN 0x8 x y 0x3
  | .addReg x y => wordXYN 0x8 x y 0x4
  | .sub x y => wordXYN 0x8 x y 0x5
  | .shr x y => wordXYN 0x8 x y 0x6
  | .subn x y => wordXYN 0x8 x y 0x7
  | .shl x y => wordXYN 0x8 x y 0xE
  | .sneReg x y => wordXYN 0x9 x y 0x0
  | .ldI nnn => wordNNN 0xA nnn
  | .jpV0 _ nnn => wordNNN 0xB nnn
  | .rnd x nn => wordXNN 0xC x nn
  | .drw x y n => wordXYN 0xD x y (nibOf n)
  | .skp x => wordXNN 0xE x 0x9E
  | .sknp x => wordXNN 0xE x 0xA1
  | .ldVxDT x => wordXNN 0xF x 0x07
  | .ldVxK x => wordXNN 0xF x 0x0A
  | .ldDTVx x => wordXNN 0xF x 0x15
  | .ldSTVx x => wordXNN 0xF x 0x18
  | .addI x => wordXNN 0xF x 0x1E
  | .ldF x => wordXNN 0xF x 0x29
  | .ldB x => wordXNN 0xF x 0x33
  | .storeRegs x => wordXNN 0xF x 0x55
  | .loadRegs x => wordXNN 0xF x 0x65

/-- The bytes of an instruction as a ROM holds them (R44). -/
def encodeBytes (i : Instr) : List Byte := bytesOfWord (encode i)

/-- The word that the table's numbering `w` of `nbits` bits stands for: every bit above `nbits` is 0. -/
def tableWord (nbits w : Nat) : Word := BitVec.ofNat 16 (w % 2 ^ nbits)

/-- The instruction this decoder reads from a word numbered as spec/opcode_table.json numbers it, laid out in memory
order (R44); none where it refuses. -/
def decodeTableWord (nbits w : Nat) : Option Instr :=
  match decodeBytes (bytesOfWord (tableWord nbits w)) with
  | .ok (i, _) => some i
  | .error _ => none

end Sys2Proof
end

