-- ==== Sys2Proof/Config.lean ====
section
/-! DEFINITION. What is fixed for one machine (spec/00_scope.md R2, R4, R5, R6) and the one free value.

`Config` is the immutable `cfg` of R4 together with the named parameters of R6. State holds one, and no step or host
operation writes it (R23; log 2). Its default, the font table and the geometry are in Machine/Platform.lean. -/

namespace Sys2Proof

/-- The five variants (R2). A variant selects a geometry; nothing else of the machine depends on it. -/
inductive Variant where
  | cosmacVIP | modern | chip48 | superChip | xoChip
  deriving DecidableEq, Repr

/-- The two framebuffer geometries that occur (R4): 64 by 32 and 128 by 64. -/
inductive Geometry where
  | classic | extended
  deriving DecidableEq, Repr

/-- The six quirk flags (R4, R5). `waitForBlank` is kept and has no effect (R143). -/
structure Quirks where
  vfReset                 : Bool
  loadStoreIncrementIndex : Bool
  waitForBlank            : Bool
  wrapSprites             : Bool
  shiftUsesSecondOperand  : Bool
  jumpAddsRegisterX       : Bool
  deriving DecidableEq, Repr

/-- FLAG_WRITE_ORDER (R6, R120): which of the result and the flag is written last when `x = 15`. -/
inductive FlagWriteOrder where
  | flagLast | resultLast
  deriving DecidableEq, Repr

/-- FAULT_POLICY (R6, R186): what the Frame Driver does after a Step that raises. -/
inductive FaultPolicy where
  | halt | skip
  deriving DecidableEq, Repr

/-- TICK_MODEL (R6, R190): a tick after every `tickRate`-th Step, or at any Step boundary. -/
inductive TickModel where
  | paced | free
  deriving DecidableEq, Repr

/-- KEY_MODEL (R6, R192): key calls at the start of a frame only, or at any Step boundary. -/
inductive KeyModel where
  | perFrame | free
  deriving DecidableEq, Repr

/-- FONT (R6, R18): glyph `g` is its five bytes, at addresses `5 * g` to `5 * g + 4`. -/
abbrev Font := Vector (Vector Byte 5) 16

/-- The configuration `cfg` of R4 with the parameters of R6. The geometry is a field of its own beside the variant,
so that a claim about every configuration covers both geometries whatever the variant (log 3). -/
structure Config where
  variant        : Variant
  geometry       : Geometry
  quirks         : Quirks
  tickRate       : Nat
  font           : Font
  flagWriteOrder : FlagWriteOrder
  faultPolicy    : FaultPolicy
  tickModel      : TickModel
  keyModel       : KeyModel
  deriving DecidableEq, Repr

/-- The free input `rnd` of R6 and R132: the stream of bytes that `draw_byte()` hands out, one for each executed RND.
It has no body, so nothing can be proved of any draw and a claim holds for every stream (log 5). -/
opaque Config.drawnByte : Nat → Byte

end Sys2Proof
end

