-- ==== Sys2Proof/Machine/Platform.lean ====
section
/-! DEFINITION. The constants of the machine and what the configuration determines: the memory size and the program
start (spec/20_memory.md R40, R42), the font table (spec/10_state.md R18), the geometries and the variants
(spec/00_scope.md R2, R4), and the configuration that `State.reset` is built with (log 1). -/

namespace Sys2Proof.Machine

/-- "4096 addressable bytes": addresses 0 to 4095 (R40). -/
def memSize : Nat := 4096

/-- `programStart`, both the load address and the initial `pc` (R42, R201). -/
def programStart : Nat := 0x200

/-- The largest ROM: 4096 - 0x200 bytes (R42, R204). -/
def maxRom : Nat := 3584

/-- The font occupies addresses 0x000 to 0x04F (R17, R18). -/
def fontBytes : Nat := 80

/-- "glyph height is a fixed constant, 5 bytes/glyph in the base font" (R162). -/
def glyphHeight : Nat := 5

/-- The default of FONT, the customary table (R18). -/
def defaultFont : Font := #v[
  #v[0xF0, 0x90, 0x90, 0x90, 0xF0],
  #v[0x20, 0x60, 0x20, 0x20, 0x70],
  #v[0xF0, 0x10, 0xF0, 0x80, 0xF0],
  #v[0xF0, 0x10, 0xF0, 0x10, 0xF0],
  #v[0x90, 0x90, 0xF0, 0x10, 0x10],
  #v[0xF0, 0x80, 0xF0, 0x10, 0xF0],
  #v[0xF0, 0x80, 0xF0, 0x90, 0xF0],
  #v[0xF0, 0x10, 0x20, 0x40, 0x40],
  #v[0xF0, 0x90, 0xF0, 0x90, 0xF0],
  #v[0xF0, 0x90, 0xF0, 0x10, 0xF0],
  #v[0xF0, 0x90, 0xF0, 0x90, 0x90],
  #v[0xE0, 0x90, 0xE0, 0x90, 0xE0],
  #v[0xF0, 0x80, 0x80, 0x80, 0xF0],
  #v[0xE0, 0x90, 0x90, 0x90, 0xE0],
  #v[0xF0, 0x80, 0xF0, 0x80, 0xF0],
  #v[0xF0, 0x80, 0xF0, 0x80, 0x80]]

/-- What construction puts at an address: FONT at 0x000 to 0x04F, zero elsewhere (R17, R27). It is what an address
that memory does not list reads as (log 11). -/
def constructedByte (font : Font) (a : Nat) : Byte :=
  if h : a < 80 then
    (font[a / 5]'(by omega))[a % 5]'(Nat.mod_lt _ (by decide))
  else 0

/-- `W`: 64 in the classic geometry, 128 in the extended one (R4). -/
def geometryWidth : Geometry → Nat
  | .classic => 64
  | .extended => 128

/-- `H`: 32 in the classic geometry, 64 in the extended one (R4). -/
def geometryHeight : Geometry → Nat
  | .classic => 32
  | .extended => 64

/-- Which geometry a variant has (R4, decision D23). -/
def variantGeometry : Variant → Geometry
  | .cosmacVIP => .classic
  | .modern => .classic
  | .chip48 => .classic
  | .superChip => .extended
  | .xoChip => .extended

/-- `W` of a configuration. -/
def frameWidth (cfg : Config) : Nat := geometryWidth cfg.geometry

/-- `H` of a configuration. -/
def frameHeight (cfg : Config) : Nat := geometryHeight cfg.geometry

/-- A configuration that construction accepts: `tickRate` is at least 1 (R4, D40) and the geometry is the variant's
(R4, D23). The six quirk bits are arguments in any combination (D23, U12). DEDUCED for the pair of CosmacVIP and
ShiftUsesSecondOperand (log 21). -/
def configWf (cfg : Config) : Bool :=
  decide (1 ≤ cfg.tickRate) && decide (cfg.geometry = variantGeometry cfg.variant)

/-- No quirk is set. -/
def noQuirks : Quirks where
  vfReset := false
  loadStoreIncrementIndex := false
  waitForBlank := false
  wrapSprites := false
  shiftUsesSecondOperand := false
  jumpAddsRegisterX := false

/-- The configuration of `State.reset`. DESIGN CHOICE (log 1): the spec leaves variant, quirks and `tickRate` as
arguments; the parameters of R6 have the spec's defaults. -/
def defaultConfig : Config where
  variant := .cosmacVIP
  geometry := .classic
  quirks := noQuirks
  tickRate := 10
  font := defaultFont
  flagWriteOrder := .flagLast
  faultPolicy := .halt
  tickModel := .paced
  keyModel := .perFrame

end Sys2Proof.Machine
end

