-- ==== Sys2Proof/Machine/State.lean ====
section
/-! DEFINITION. The state of the machine (spec/10_state.md R10, R23, R25), the reasons a step or a host operation can
stop, and the state after reset (R27, R200). -/

namespace Sys2Proof.Machine

/-- The four run states (R22, R194). -/
inductive RunState where
  | off | running | paused | finished
  deriving DecidableEq, Repr

/-- Memory: the cells that differ from what construction put there, addresses strictly rising (log 11). -/
abbrev Memory := List Host.Cell

/-- The framebuffer: the linear positions `py * W + px` of the cells that are 1, strictly rising (R20, log 10). -/
abbrev Frame := List Nat

/-- The machine state: the twelve items of R10, then the configuration (R23), the Frame Driver's count (R25 a), the
ROM image the host keeps (R25 c), and the number of random bytes drawn so far (R25 b, log 5). -/
structure State where
  /-- `cfg`, fixed at construction (R4, R23). -/
  cfg         : Config
  /-- `V[0..15]` (R11). -/
  regs        : Vector Byte 16
  /-- `pc` (R13). -/
  pc          : Word
  /-- `I` (R14). -/
  index       : Word
  /-- `stack[0..15]` (R15). -/
  stack       : Vector Word 16
  /-- `SP`, 0 to 16 (R15). -/
  sp          : Fin 17
  /-- `DT` (R16). -/
  dt          : Byte
  /-- `ST` (R16). -/
  st          : Byte
  /-- `mem[0..4095]` (R17). -/
  mem         : Memory
  /-- `key[0..15]`, true means down (R19). -/
  keys        : Vector Bool 16
  /-- `fb` (R20). -/
  fb          : Frame
  /-- `programSize`, 0 to 3584 (R21). -/
  programSize : Fin 3585
  /-- `runState` (R22). -/
  runState    : RunState
  /-- `frameStep`, the Frame Driver's count of Steps since the last frame end (R25, R190). -/
  frameStep   : Nat
  /-- The image of the last successful load, kept by the host for reset (R25, R203). -/
  rom         : Option (List Byte)
  /-- The model's own counter of draws: the next RND draws byte number `draws` of the free stream (log 5). -/
  draws       : Nat
  deriving DecidableEq, Repr

/-- Why a step or a load stops. The first five are the exceptions of R180, raised by the Step; each is what the spec
gives, so none hides an effect. -/
inductive Fault where
  /-- `InvalidAddress`, raised by the fetch and by DRW, LD B, LD [I] and LD Vx,[I] when an address they need is 4096
  or more (R181). The address is a diagnostic (R180). Safe: the spec's own fault. -/
  | invalidAddress (a : Nat)
  /-- `InvalidOpcode(word)`, raised by dispatch (R182). Safe: the spec's own fault. -/
  | invalidOpcode (w : Word)
  /-- `StackOverflow`, raised by CALL at `SP = 16` (R103, R183). Safe: the spec's own fault. -/
  | stackOverflow (pc : Word)
  /-- `StackUnderflow`, raised by RET at `SP = 0` (R101, R183). Safe: the spec's own fault. -/
  | stackUnderflow (pc : Word)
  /-- `KeyIndexOutOfRange`, raised by SKP and SKNP when `V[x] > 15` (R151, R152, R183). Safe: the spec's own fault. -/
  | keyIndexOutOfRange (k : Byte)
  /-- Stuck: `step` was asked for in Off, Paused or Finished, where no Step is enabled (R179, R194). Not an exception
  of R180; only a host operation lifts it. Safe: the machine stands still there (log 6). -/
  | notRunning (r : RunState)
  /-- `SizeExceeded`, answered by the host operation `load` for more than 3584 bytes, never by a step (R204). Safe: the
  spec's own failure. -/
  | sizeExceeded (length : Nat)
  deriving DecidableEq, Repr

/-- Why an instruction or a host operation is given no meaning. -/
inductive Refusal where
  /-- Answered by an arm of `exec` whose instruction has no meaning in this model; no arm is left so. Safe. -/
  | notModelled (mnemonic : String)
  /-- `construct(cfg)` with `tickRate = 0` (U16, D40), or with a geometry that is not the variant's, which R4 and D23
  do not have (log 3). Safe. -/
  | configOutsideScope
  /-- `load` on a machine whose ROM is already loaded: "a second load onto a used machine is outside what the source
  describes and a model refuses it" (R204). Safe. -/
  | secondLoad
  /-- "If no load ever succeeded, `reset()` is refused" (R203). Safe. -/
  | resetBeforeLoad
  /-- `key_down(k)` with `k` outside 0 to 15 (R191). Safe. -/
  | keyOutsideKeypad (k : Nat)
  /-- A key call inside a frame, which KEY_MODEL = per_frame does not have (R192). Safe. -/
  | keyCallInsideFrame
  /-- A host `frame_tick()` that TICK_MODEL = paced does not have, or one outside Running (R190, D37). Safe. -/
  | tickNotDue
  /-- `has_color` outside the frame (R193, D34). Safe. -/
  | outsideFrame (px py : Nat)
  /-- A host write of `runState` that is no arc of the table of R194 (R196). Safe. -/
  | runStateArc (source target : RunState)
  deriving DecidableEq, Repr

/-- `construct(cfg)`: a fresh machine state (R27, R200). Memory and framebuffer list nothing: every byte reads as
construction left it and every cell is 0. -/
def State.construct (cfg : Config) : State where
  cfg := cfg
  regs := Vector.replicate 16 0
  pc := BitVec.ofNat 16 programStart
  index := 0
  stack := Vector.replicate 16 0
  sp := 0
  dt := 0
  st := 0
  mem := []
  keys := Vector.replicate 16 false
  fb := []
  programSize := 0
  runState := .off
  frameStep := 0
  rom := none
  draws := 0

/-- The machine right after reset: constructed, nothing loaded, Off (R200), with the configuration of log 1. -/
def State.reset : State := State.construct defaultConfig

end Sys2Proof.Machine
end

