-- ==== Sys2Proof/Machine/Ops.lean ====
section
/-! DEFINITION. The named operations over state, memory and framebuffer, the way a Step ends, and taking an exception
(spec/00_scope.md R8, spec/20_memory.md, spec/60_exceptions.md R184, R186). -/

namespace Sys2Proof.Machine

/-- What a step, an instruction or a host operation answers. -/
abbrev Result := Host.Outcome State Fault Refusal

/-! ### One setter for each field that an agent may write (`cfg` has none, R23) -/

def State.setRegs (s : State) (v : Vector Byte 16) : State := { s with regs := v }
def State.setPc (s : State) (v : Word) : State := { s with pc := v }
def State.setIndex (s : State) (v : Word) : State := { s with index := v }
def State.setStack (s : State) (v : Vector Word 16) : State := { s with stack := v }
def State.setSp (s : State) (v : Fin 17) : State := { s with sp := v }
def State.setDt (s : State) (v : Byte) : State := { s with dt := v }
def State.setSt (s : State) (v : Byte) : State := { s with st := v }
def State.setMem (s : State) (v : Memory) : State := { s with mem := v }
def State.setKeys (s : State) (v : Vector Bool 16) : State := { s with keys := v }
def State.setFb (s : State) (v : Frame) : State := { s with fb := v }
def State.setProgramSize (s : State) (v : Fin 3585) : State := { s with programSize := v }
def State.setRunState (s : State) (v : RunState) : State := { s with runState := v }
def State.setFrameStep (s : State) (v : Nat) : State := { s with frameStep := v }
def State.setRom (s : State) (v : Option (List Byte)) : State := { s with rom := v }
def State.setDraws (s : State) (v : Nat) : State := { s with draws := v }

/-! ### Registers -/

/-- `V[i]` (R8, R11). -/
def State.reg (s : State) (i : Reg) : Byte := s.regs[i]

/-- `V[i] <- v` (R8). -/
def State.setReg (s : State) (i : Reg) (v : Byte) : State := s.setRegs (s.regs.set i v)

/-- `key[k]` (R8, R19). -/
def State.key (s : State) (k : Reg) : Bool := s.keys[k]

/-! ### Memory -/

/-- The byte at an address: the listed one, or what construction left there (R48, log 11). -/
def Memory.read (font : Font) (m : Memory) (a : Nat) : Byte :=
  (m.lookup a).getD (constructedByte font a)

/-- Put a cell in its place in the rising order. -/
def Memory.insert (c : Host.Cell) : Memory → Memory
  | [] => [c]
  | d :: rest => if c.1 < d.1 then c :: d :: rest else d :: Memory.insert c rest

/-- Forget what is listed at an address. -/
def Memory.erase (m : Memory) (a : Nat) : Memory := m.filter (fun c => c.1 != a)

/-- Store one byte, keeping the canonical form: a byte equal to what construction put there is not listed. -/
def Memory.write (font : Font) (m : Memory) (a : Nat) (v : Byte) : Memory :=
  if v = constructedByte font a then Memory.erase m a else Memory.insert (a, v) (Memory.erase m a)

/-- Store bytes at ascending addresses from `base` (R163). -/
def Memory.writeBytes (font : Font) (m : Memory) (base : Nat) : List Byte → Memory
  | [] => m
  | b :: rest => Memory.writeBytes font (Memory.write font m base b) (base + 1) rest

/-- The canonical form: addresses strictly rising, inside the address space, no cell listed that reads as construction
left it. -/
abbrev Memory.wf (font : Font) (m : Memory) : Prop :=
  m.Pairwise (fun c d => c.1 < d.1) ∧ ∀ c ∈ m, c.1 < memSize ∧ c.2 ≠ constructedByte font c.1

/-- `MemRead(addr, 1)` of an address that the instruction has found to lie inside memory (R8, R47). -/
def State.memRead (s : State) (a : Nat) : Byte := Memory.read s.cfg.font s.mem a

/-- `len` reads at ascending addresses. -/
def State.memReadBytes (s : State) (base len : Nat) : List Byte :=
  (List.range len).map (fun i => s.memRead (base + i))

/-- `MemWrite` of bytes at ascending addresses from `base` (R8, R163). -/
def State.memWriteBytes (s : State) (base : Nat) (bytes : List Byte) : State :=
  s.setMem (Memory.writeBytes s.cfg.font s.mem base bytes)

/-! ### Framebuffer -/

/-- `fb` at a linear position: is the cell 1? -/
def Frame.lit (f : Frame) (i : Nat) : Bool := f.contains i

/-- Put a position in its place in the rising order. -/
def Frame.insert (i : Nat) : Frame → Frame
  | [] => [i]
  | j :: rest => if i < j then i :: j :: rest else j :: Frame.insert i rest

/-- `fb[..] <- fb[..] ^ 1` (R141). -/
def Frame.toggle (f : Frame) (i : Nat) : Frame :=
  if Frame.lit f i then f.filter (fun j => j != i) else Frame.insert i f

/-- One pixel of a sprite: the collision flag takes in the old cell, then the cell is toggled (R141). -/
def Frame.plot (acc : Frame × Bool) (i : Nat) : Frame × Bool :=
  (Frame.toggle acc.1 i, acc.2 || Frame.lit acc.1 i)

/-- The pixels of a sprite one after another, from a clear collision flag (R141). -/
def Frame.plotAll (f : Frame) (cells : List Nat) : Frame × Bool :=
  cells.foldl Frame.plot (f, false)

/-- The linear position `py * W + px` of a cell (R20, D24). -/
def cellIndex (cfg : Config) (px py : Nat) : Nat := py * frameWidth cfg + px

/-- The canonical form: positions strictly rising and inside the frame. -/
abbrev Frame.wf (cfg : Config) (f : Frame) : Prop :=
  f.Pairwise (fun i j => i < j) ∧ ∀ i ∈ f, i < frameWidth cfg * frameHeight cfg

/-! ### How a Step ends -/

/-- Taking an exception: the Step ends with the named fault, handed to its caller, and no state is changed (R184,
R186). Nothing is saved, no mode changes and control goes nowhere inside the machine; what the host does next is
`State.skipFault` or nothing. -/
def raise (f : Fault) (_s : State) : Result := .fault f

/-- The only return from an exception there is: under FAULT_POLICY = skip the host performs `pc <- pc + 2` and goes
on calling Step (R186, R199). -/
def State.skipFault (s : State) : State := s.setPc (s.pc + 2)

/-- `pc <- pc + 2` (R13). -/
def State.advance (s : State) : State := s.setPc (s.pc + 2)

/-- The ending of every instruction that R13 does not list apart. -/
def finish (s : State) : Result := .next s.advance

/-- The ending of the six skips: `pc <- pc + (c ? 4 : 2)` (R13). -/
def skipIf (c : Bool) (s : State) : Result := .next (s.setPc (s.pc + if c then 4 else 2))

/-- The ending of JP, CALL and JP V0: `pc <- target`, with no addition (R13). -/
def jumpTo (target : Word) (s : State) : Result := .next (s.setPc target)

end Sys2Proof.Machine
end

