-- ==== Sys2Proof/Machine/Operands.lean ====
section
/-! DEFINITION. The operand forms: the source of a shift, the register of JP V0, the address ranges of the memory
instructions with their bounds check, the sprite's cells and the lowest key down. -/

namespace Sys2Proof.Machine

/-- `zext_16` of a byte (R7). -/
def zext8 (b : Byte) : Word := b.setWidth 16

/-- `zext_16(nnn)` (R64). -/
def zext12 (a : Addr12) : Word := a.setWidth 16

/-- The value SHR and SHL shift: `V[y]` unless ShiftUsesSecondOperand is set, then `V[x]` (R129, R131). -/
def shiftSource (x y : Reg) (s : State) : Byte :=
  if s.cfg.quirks.shiftUsesSecondOperand then s.reg x else s.reg y

/-- The register JP V0 adds: V0, or `V[x]` under JumpAddsRegisterX (R108). -/
def jumpRegister (x : Reg) (s : State) : Reg :=
  if s.cfg.quirks.jumpAddsRegisterX then x else 0

/-- The bounds check of a data access of `len` bytes at `I`: if the last address is 4096 or more, `InvalidAddress` with
the first offending address (R47, R163). A range of no bytes cannot fault (R141). -/
def rangeFault (len : Nat) (s : State) : Option Fault :=
  if 0 < len ∧ memSize ≤ s.index.toNat + len - 1 then
    some (.invalidAddress (max s.index.toNat memSize))
  else none

/-- An instruction that accesses `len` bytes at `I`: the check comes first, and one that fails does nothing (R47). -/
def withRange (len : Nat) (s : State) (body : Result) : Result :=
  match rangeFault len s with
  | some f => raise f s
  | none => body

/-- `I <- I + x + 1` under LoadStoreIncrementIndex (R165, R166). -/
def State.bumpIndex (s : State) (x : Reg) : State :=
  if s.cfg.quirks.loadStoreIncrementIndex then s.setIndex (s.index + BitVec.ofNat 16 (x.val + 1)) else s

/-- `V[0]` to `V[x]`, the bytes of a block store in ascending order (R165). -/
def regsUpTo (x : Reg) (s : State) : List Byte :=
  (s.regs.toList).take (x.val + 1)

/-- `V[i] <- MemRead(I + i, 1)` for i = 0 to x (R166). -/
def State.loadRegsUpTo (s : State) (x : Reg) : State :=
  s.setRegs (Vector.ofFn (fun i : Fin 16 => if i ≤ x then s.memRead (s.index.toNat + i.val) else s.reg i))

/-- Hundreds, tens, ones of a byte, each digit a whole byte (R164). -/
def bcdDigits (v : Byte) : List Byte :=
  [BitVec.ofNat 8 (v.toNat / 100), BitVec.ofNat 8 (v.toNat / 10 % 10), BitVec.ofNat 8 (v.toNat % 10)]

/-- Where the sprite pixel at column `px`, row `py` falls: wrapped on each axis under WrapSprites, else dropped when
outside the frame (R141). -/
def pixelCell (cfg : Config) (px py : Nat) : Option Nat :=
  if cfg.quirks.wrapSprites then
    some (cellIndex cfg (px % frameWidth cfg) (py % frameHeight cfg))
  else if px < frameWidth cfg ∧ py < frameHeight cfg then some (cellIndex cfg px py)
  else none

/-- The cells of one sprite row: column c = 0 is bit 7 of the byte (R141). -/
def spriteRow (cfg : Config) (ox py : Nat) (b : Byte) : List Nat :=
  (List.range 8).filterMap (fun c => if b.getLsbD (7 - c) then pixelCell cfg (ox + c) py else none)

/-- The cells of the set and visible pixels of a sprite, top to bottom, left to right (R141). -/
def spriteCells (cfg : Config) (ox py : Nat) : List Byte → List Nat
  | [] => []
  | b :: rest => spriteRow cfg ox py b ++ spriteCells cfg ox (py + 1) rest

/-- The column of the draw origin, `V[x] mod W` (R141). -/
def originX (x : Reg) (s : State) : Nat := (s.reg x).toNat % frameWidth s.cfg

/-- The row of the draw origin, `V[y] mod H` (R141). -/
def originY (y : Reg) (s : State) : Nat := (s.reg y).toNat % frameHeight s.cfg

/-- The cells that DRW Vx, Vy, n toggles (R141). -/
def drawnCells (x y : Reg) (n : Fin 16) (s : State) : List Nat :=
  spriteCells s.cfg (originX x s) (originY y s) (s.memReadBytes s.index.toNat n.val)

/-- The least key that is down (R153). -/
def firstKeyDown (s : State) : Option Reg := (List.finRange 16).find? (fun k => s.key k)

end Sys2Proof.Machine
end

