-- ==== Sys2Proof/Machine/Flags.lean ====
section
/-! DEFINITION. The flag VF: what the instructions write to it (spec/10_state.md R12) and in which order with their
result (spec/41_load_alu.md R120). -/

namespace Sys2Proof.Machine

/-- "A flag write stores exactly 0 or 1" (R120). -/
def flagByte (c : Bool) : Byte := if c then 1 else 0

/-- ADD: 1 iff the 8-bit sum overflowed (R127). -/
def carryOut (a b : Byte) : Bool := decide (256 ≤ a.toNat + b.toNat)

/-- SUB and SUBN: 1 iff `a - b` does not borrow (R128, R130). -/
def noBorrow (a b : Byte) : Bool := decide (b.toNat ≤ a.toNat)

/-- SHR: the bit shifted out at the bottom (R129). -/
def bitOutLow (a : Byte) : Bool := a.getLsbD 0

/-- SHL: the bit shifted out at the top (R131). -/
def bitOutHigh (a : Byte) : Bool := a.getLsbD 7

/-- `V[15] <- c` (R12). -/
def State.setFlag (s : State) (c : Bool) : State := s.setReg VF (flagByte c)

/-- The result to `V[x]` and the flag to VF, in the order FLAG_WRITE_ORDER gives (R120). -/
def State.setResultAndFlag (s : State) (x : Reg) (r : Byte) (c : Bool) : State :=
  match s.cfg.flagWriteOrder with
  | .flagLast => (s.setReg x r).setFlag c
  | .resultLast => (s.setFlag c).setReg x r

/-- OR, AND, XOR: VF becomes 0 when VfReset is set, and is not written otherwise (R124 to R126). -/
def State.setLogicResult (s : State) (x : Reg) (r : Byte) : State :=
  if s.cfg.quirks.vfReset then s.setResultAndFlag x r false else s.setReg x r

end Sys2Proof.Machine
end

