-- ==== Sys2Proof/Machine/ControlFlow.lean ====
section
/-! DEFINITION. The control-flow instructions (spec/40_control_flow.md): none writes a general register, `I`, memory,
the framebuffer or a timer; the only exceptions are the two stack faults (R100). -/

namespace Sys2Proof.Machine

/-- RET: the slot holds the address of the CALL, and `+ 2` steps over it; the slot keeps its content (R101). -/
def execRet (s : State) : Result :=
  if h : 0 < s.sp.val then
    .next ((s.setSp ⟨s.sp.val - 1, by omega⟩).setPc (s.stack[s.sp.val - 1]'(by omega) + 2))
  else raise (.stackUnderflow s.pc) s

/-- JP nnn (R102). -/
def execJp (nnn : Addr12) (s : State) : Result := jumpTo (zext12 nnn) s

/-- CALL nnn: pushes its own address (R103). -/
def execCall (nnn : Addr12) (s : State) : Result :=
  if h : s.sp.val < 16 then
    jumpTo (zext12 nnn) ((s.setStack (s.stack.set s.sp.val s.pc h)).setSp ⟨s.sp.val + 1, by omega⟩)
  else raise (.stackOverflow s.pc) s

/-- SE Vx, nn (R104). -/
def execSeImm (x : Reg) (nn : Byte) (s : State) : Result := skipIf (s.reg x == nn) s

/-- SNE Vx, nn (R105). -/
def execSneImm (x : Reg) (nn : Byte) (s : State) : Result := skipIf (s.reg x != nn) s

/-- SE Vx, Vy (R106). -/
def execSeReg (x y : Reg) (s : State) : Result := skipIf (s.reg x == s.reg y) s

/-- SNE Vx, Vy (R107). -/
def execSneReg (x y : Reg) (s : State) : Result := skipIf (s.reg x != s.reg y) s

/-- JP V0, nnn: the sum is not reduced to 12 bits (R108). -/
def execJpV0 (x : Reg) (nnn : Addr12) (s : State) : Result :=
  jumpTo (zext12 nnn + zext8 (s.reg (jumpRegister x s))) s

end Sys2Proof.Machine
end

