-- ==== Sys2Proof/Machine/Display.lean ====
section
/-! DEFINITION. The display instructions (spec/42_display.md). WaitForBlank has no effect on them (R143). -/

namespace Sys2Proof.Machine

/-- CLS: every cell becomes 0; VF is not written (R140). -/
def execCls (s : State) : Result := finish (s.setFb [])

/-- DRW Vx, Vy, n: the origin is read before anything is written, the range is checked before any cell changes, and VF
is written last (R141). -/
def execDrw (x y : Reg) (n : Fin 16) (s : State) : Result :=
  withRange n.val s <|
    finish ((s.setFb (Frame.plotAll s.fb (drawnCells x y n s)).1).setFlag
      (Frame.plotAll s.fb (drawnCells x y n s)).2)

end Sys2Proof.Machine
end

