-- ==== Sys2Proof/Machine/IndexMemory.lean ====
section
/-! DEFINITION. The index-register and memory instructions (spec/44_index_memory.md): the whole range is checked before
anything is written, and bytes move in ascending address order (R163). -/

namespace Sys2Proof.Machine

/-- LD I, nnn (R160). -/
def execLdI (nnn : Addr12) (s : State) : Result := finish (s.setIndex (zext12 nnn))

/-- ADD I, Vx: wraps at 16 bits, VF is not written (R161). -/
def execAddI (x : Reg) (s : State) : Result := finish (s.setIndex (s.index + zext8 (s.reg x)))

/-- LD F, Vx: the register is not reduced to its low four bits (R162). -/
def execLdF (x : Reg) (s : State) : Result :=
  finish (s.setIndex (BitVec.ofNat 16 glyphHeight * zext8 (s.reg x)))

/-- LD B, Vx (R164). -/
def execLdB (x : Reg) (s : State) : Result :=
  withRange 3 s <| finish (s.memWriteBytes s.index.toNat (bcdDigits (s.reg x)))

/-- LD [I], Vx (R165). -/
def execStoreRegs (x : Reg) (s : State) : Result :=
  withRange (x.val + 1) s <| finish ((s.memWriteBytes s.index.toNat (regsUpTo x s)).bumpIndex x)

/-- LD Vx, [I] (R166). -/
def execLoadRegs (x : Reg) (s : State) : Result :=
  withRange (x.val + 1) s <| finish ((s.loadRegsUpTo x).bumpIndex x)

end Sys2Proof.Machine
end

