-- ==== Sys2Proof/Machine/KeypadTimers.lean ====
section
/-! DEFINITION. The keypad and timer instructions (spec/43_keypad_timers.md). None changes a key latch (R150). -/

namespace Sys2Proof.Machine

/-- SKP and SKNP test the key whose number is the content of `V[x]`; above 15 there is no such key (R151, R152). -/
def withKey (x : Reg) (s : State) (body : Bool → Result) : Result :=
  if h : (s.reg x).toNat < 16 then body (s.key ⟨(s.reg x).toNat, h⟩)
  else raise (.keyIndexOutOfRange (s.reg x)) s

/-- SKP Vx (R151). -/
def execSkp (x : Reg) (s : State) : Result := withKey x s (fun down => skipIf down s)

/-- SKNP Vx (R152). -/
def execSknp (x : Reg) (s : State) : Result := withKey x s (fun down => skipIf (!down) s)

/-- LD Vx, K: with no key down the Step completes and changes nothing, `pc` included (R153). -/
def execLdVxK (x : Reg) (s : State) : Result :=
  match firstKeyDown s with
  | some k => finish (s.setReg x (BitVec.ofNat 8 k.val))
  | none => .next s

/-- LD Vx, DT (R154). -/
def execLdVxDT (x : Reg) (s : State) : Result := finish (s.setReg x s.dt)

/-- LD DT, Vx (R155). -/
def execLdDTVx (x : Reg) (s : State) : Result := finish (s.setDt (s.reg x))

/-- LD ST, Vx (R156). -/
def execLdSTVx (x : Reg) (s : State) : Result := finish (s.setSt (s.reg x))

end Sys2Proof.Machine
end

