-- ==== Sys2Proof/Machine/LoadAlu.lean ====
section
/-! DEFINITION. The register load and ALU instructions (spec/41_load_alu.md): both operands are read first, then the
result and the flag are written, then `pc <- pc + 2`; none raises (R120). -/

namespace Sys2Proof.Machine

/-- LD Vx, nn (R121). -/
def execLdImm (x : Reg) (nn : Byte) (s : State) : Result := finish (s.setReg x nn)

/-- ADD Vx, nn: VF is not written (R122). -/
def execAddImm (x : Reg) (nn : Byte) (s : State) : Result := finish (s.setReg x (s.reg x + nn))

/-- LD Vx, Vy (R123). -/
def execLdReg (x y : Reg) (s : State) : Result := finish (s.setReg x (s.reg y))

/-- OR Vx, Vy (R124). -/
def execOr (x y : Reg) (s : State) : Result := finish (s.setLogicResult x (s.reg x ||| s.reg y))

/-- AND Vx, Vy (R125). -/
def execAnd (x y : Reg) (s : State) : Result := finish (s.setLogicResult x (s.reg x &&& s.reg y))

/-- XOR Vx, Vy (R126). -/
def execXor (x y : Reg) (s : State) : Result := finish (s.setLogicResult x (s.reg x ^^^ s.reg y))

/-- ADD Vx, Vy (R127). -/
def execAddReg (x y : Reg) (s : State) : Result :=
  finish (s.setResultAndFlag x (s.reg x + s.reg y) (carryOut (s.reg x) (s.reg y)))

/-- SUB Vx, Vy (R128). -/
def execSub (x y : Reg) (s : State) : Result :=
  finish (s.setResultAndFlag x (s.reg x - s.reg y) (noBorrow (s.reg x) (s.reg y)))

/-- SHR Vx, Vy: a logical shift by one (R129). -/
def execShr (x y : Reg) (s : State) : Result :=
  finish (s.setResultAndFlag x (shiftSource x y s >>> 1) (bitOutLow (shiftSource x y s)))

/-- SUBN Vx, Vy: the destination is still `V[x]` (R130). -/
def execSubn (x y : Reg) (s : State) : Result :=
  finish (s.setResultAndFlag x (s.reg y - s.reg x) (noBorrow (s.reg y) (s.reg x)))

/-- SHL Vx, Vy (R131). -/
def execShl (x y : Reg) (s : State) : Result :=
  finish (s.setResultAndFlag x (shiftSource x y s <<< 1) (bitOutHigh (shiftSource x y s)))

/-- RND Vx, nn: one byte of the free stream is drawn (R132, log 5). -/
def execRnd (x : Reg) (nn : Byte) (s : State) : Result :=
  finish ((s.setReg x (Config.drawnByte s.draws &&& nn)).setDraws (s.draws + 1))

end Sys2Proof.Machine
end

