-- ==== Sys2Proof/Machine/Fetch.lean ====
section
/-! DEFINITION. The instruction fetch, the end-of-program test, and how an instruction is placed for the next fetch
(spec/20_memory.md R44, R47, spec/30_encoding.md R60, spec/60_exceptions.md R195). -/

namespace Sys2Proof.Machine

/-- `MemRead(pc, 2)`: fails when `pc + 1 >= 4096` (R8, R47, R60). -/
def fetch (s : State) : Except Fault Word :=
  if memSize ≤ s.pc.toNat + 1 then .error (.invalidAddress s.pc.toNat)
  else .ok (wordOfBytes (s.memRead s.pc.toNat) (s.memRead (s.pc.toNat + 1)))

/-- `pc >= 0x200 + programSize` (R195). -/
def pastEnd (s : State) : Bool := decide (programStart + s.programSize.val ≤ s.pc.toNat)

/-- `w` stored where the next fetch reads it, and the machine made to fetch it: Running, and `pc` below the program's
end. It stands for a load of a program from outside (log 4). Where no fetch can succeed nothing is stored. -/
def placeWord (s : State) (w : Word) : State :=
  let t := if s.pc.toNat + 1 < memSize then s.memWriteBytes s.pc.toNat (bytesOfWord w) else s
  (if pastEnd s then t.setProgramSize 3584 else t).setRunState .running

end Sys2Proof.Machine
end

