-- ==== Sys2Proof/Machine/FrameDriver.lean ====
section
/-! DEFINITION. One Step of the core and the pacing of the Frame Driver around it (spec/30_encoding.md R60,
spec/60_exceptions.md R186, R189 to R195). The pacing is deterministic given the configuration, so a step performs it
after the instruction (log 7). -/

namespace Sys2Proof.Machine

/-- `DT` and `ST` count down by 1 and stop at zero (R189). -/
def countDown (b : Byte) : Byte := if b = 0 then 0 else b - 1

/-- `frame_tick()` (R190). -/
def State.frameTick (s : State) : State := (s.setDt (countDown s.dt)).setSt (countDown s.st)

/-- `keys_clear()` (R192). -/
def State.keysClear (s : State) : State := s.setKeys (Vector.replicate 16 false)

/-- The tick that ends a frame under TICK_MODEL = paced (R190). -/
def State.frameEndTick (s : State) : State :=
  match s.cfg.tickModel with
  | .paced => s.frameTick
  | .free => s

/-- The `keys_clear()` that opens the next frame under KEY_MODEL = per_frame (R192, log 8). -/
def State.frameOpenKeys (s : State) : State :=
  match s.cfg.keyModel with
  | .perFrame => s.keysClear
  | .free => s

/-- Every Step taken in Running adds one to `frameStep`; at `tickRate` the frame ends and `frameStep` is 0 (R190). -/
def State.countStep (s : State) : State :=
  if s.frameStep + 1 < s.cfg.tickRate then s.setFrameStep (s.frameStep + 1)
  else (s.setFrameStep 0).frameEndTick.frameOpenKeys

/-- Decode, dispatch and execute a fetched word; a word that is no instruction raises `InvalidOpcode` (R60, R67). -/
def runWord (w : Word) (s : State) : Result :=
  match decode w with
  | .ok i => exec i s
  | .error _ => raise (.invalidOpcode w) s

/-- The Step of R60, its precondition apart: fetch, then decode, dispatch and execute. -/
def coreStep (s : State) : Result :=
  match fetch s with
  | .error f => raise f s
  | .ok w => runWord w s

/-- What the Frame Driver does with the outcome of a Step taken at `s`: it counts the Step; after one that raises it
stops, or skips the word, as FAULT_POLICY says (R186, R190, D37). -/
def afterStep (s : State) (r : Result) : Result :=
  match r with
  | .next t => .next t.countStep
  | .refused why => .refused why
  | .fault f =>
    match s.cfg.faultPolicy with
    | .halt => .fault f
    | .skip => .next s.skipFault.countStep

/-- A Step boundary: in Running either the end-of-program transition, which is no Step (R195), or a Step; in the other
run states no Step is enabled (R194, log 6). -/
def boundary (s : State) : Result :=
  match s.runState with
  | .running => if pastEnd s then .next (s.setRunState .finished) else afterStep s (coreStep s)
  | .off => raise (.notRunning .off) s
  | .paused => raise (.notRunning .paused) s
  | .finished => raise (.notRunning .finished) s

end Sys2Proof.Machine
end

