-- ==== Sys2Proof/Machine/Step.lean ====
section
/-! DEFINITION. The step of the machine, and how a word is placed for it. Both only call their definitions in
Machine/FrameDriver.lean and Machine/Fetch.lean. -/

namespace Sys2Proof.Machine

/-- One step: what happens at one Step boundary (R60, R190, R195). -/
def step (s : State) : Host.Outcome State Fault Refusal := boundary s

/-- `s` with the word the table numbers `w` stored where `step` fetches its next instruction (log 4). -/
def State.withFetchWord (s : State) (nbits w : Nat) : State := placeWord s (tableWord nbits w)

end Sys2Proof.Machine
end

