-- ==== Sys2Proof/Machine/HostOps.lean ====
section
/-! DEFINITION. The operations of the host, each atomic and between Steps (spec/60_exceptions.md R188 to R197,
spec/70_reset_and_hazards.md R200 to R205), and runs: sequences of Steps and host operations (R210). -/

namespace Sys2Proof.Machine

/-- The host operations that change the state of a machine (R188). -/
inductive HostOp where
  /-- Loader: `load(bytes)` (R204). -/
  | load (bytes : List Byte)
  /-- Frame Driver: write `runState` (R196). -/
  | writeRunState (target : RunState)
  /-- Frame Driver: `frame_tick()` at a moment of its own, under TICK_MODEL = free (R190). -/
  | frameTick
  /-- Frame Driver: `key_down(k)` (R191). -/
  | keyDown (k : Nat)
  /-- Frame Driver: `keys_clear()` (R192). -/
  | keysClear
  /-- Frame Driver: `reset()` (R197, R203). -/
  | reset
  deriving DecidableEq, Repr

/-- `construct(cfg)`; `tickRate = 0` is refused (U16), and so is a geometry that is not the variant's (R4, D23; log 3).
Every other configuration gives a fresh machine (R200). -/
def construct (cfg : Config) : Result :=
  if configWf cfg then .next (State.construct cfg) else .refused .configOutsideScope

/-- What a load of at most 3584 bytes writes: the bytes at 0x200, `programSize`, and the host keeps the image (R204). -/
def State.loadImage (s : State) (bytes : List Byte) (h : bytes.length < 3585) : State :=
  ((s.memWriteBytes programStart bytes).setProgramSize ⟨bytes.length, h⟩).setRom (some bytes)

/-- `load(bytes)`: a size error leaves the state as it was, whatever it was; a second load is refused (R204, log 13). -/
def load (bytes : List Byte) (s : State) : Result :=
  if h : bytes.length < 3585 then
    match s.rom with
    | none => .next (s.loadImage bytes h)
    | some _ => .refused .secondLoad
  else .fault (.sizeExceeded bytes.length)

/-- `reset()`: construct with the same configuration, load the kept image, Running (R203). The stream of random bytes
goes on (log 15). -/
def reset (s : State) : Result :=
  match s.rom with
  | none => .refused .resetBeforeLoad
  | some bytes =>
    match load bytes (State.construct s.cfg) with
    | .next t => .next ((t.setRunState .running).setDraws s.draws)
    | .fault f => .fault f
    | .refused why => .refused why

/-- The host's arcs in the table of R194; Off to Running comes "after a successful load" (log 14). -/
def hostArc (loaded : Bool) (source target : RunState) : Bool :=
  match source, target with
  | .off, .running => loaded
  | .running, .paused => true
  | .paused, .running => true
  | .off, .off => true
  | .running, .off => true
  | .paused, .off => true
  | .finished, .off => true
  | .off, .paused => false
  | .off, .finished => false
  | .running, .running => false
  | .running, .finished => false
  | .paused, .paused => false
  | .paused, .finished => false
  | .finished, .running => false
  | .finished, .paused => false
  | .finished, .finished => false

/-- The host writes `runState`, and no other state (R196). -/
def writeRunState (target : RunState) (s : State) : Result :=
  if hostArc s.rom.isSome s.runState target then .next (s.setRunState target)
  else .refused (.runStateArc s.runState target)

/-- Key calls fall at the start of a frame under KEY_MODEL = per_frame, anywhere under free (R192). -/
def keyCallDue (s : State) : Bool :=
  match s.cfg.keyModel with
  | .perFrame => s.frameStep == 0
  | .free => true

/-- `key_down(k)` (R191). -/
def keyDown (k : Nat) (s : State) : Result :=
  if h : k < 16 then
    if keyCallDue s then .next (s.setKeys (s.keys.set k true h)) else .refused .keyCallInsideFrame
  else .refused (.keyOutsideKeypad k)

/-- `keys_clear()` as a call of the host's own (R192). -/
def keysClear (s : State) : Result :=
  if keyCallDue s then .next s.keysClear else .refused .keyCallInsideFrame

/-- `frame_tick()` as a call of the host's own: under TICK_MODEL = free, at any Step boundary while Running (R190,
D37, log 9). -/
def hostTick (s : State) : Result :=
  if s.cfg.tickModel = .free ∧ s.runState = .running then .next s.frameTick else .refused .tickNotDue

/-- `has_color(px, py)`: a read that changes nothing, refused outside the frame (R193). -/
def hasColor (s : State) (px py : Nat) : Except Refusal Bool :=
  if px < frameWidth s.cfg ∧ py < frameHeight s.cfg then .ok (Frame.lit s.fb (cellIndex s.cfg px py))
  else .error (.outsideFrame px py)

/-- One host operation. -/
def hostOp (op : HostOp) (s : State) : Result :=
  match op with
  | .load bytes => load bytes s
  | .writeRunState target => writeRunState target s
  | .frameTick => hostTick s
  | .keyDown k => keyDown k s
  | .keysClear => keysClear s
  | .reset => reset s

/-- What can happen next to a machine (R188). -/
inductive Event where
  | step
  | host (op : HostOp)
  deriving DecidableEq, Repr

/-- One event: a step, or one host operation between two steps (R50). -/
def applyEvent (e : Event) (s : State) : Result :=
  match e with
  | .step => step s
  | .host op => hostOp op s

/-- A run: "a sequence of Steps and host operations" (R210), up to the first that does not answer a next state. -/
def runEvents : List Event → State → Result
  | [], s => .next s
  | e :: rest, s =>
    match applyEvent e s with
    | .next t => runEvents rest t
    | .fault f => .fault f
    | .refused why => .refused why

/-- The boot order: construct, load, Running; the answer is the launch state (R205, R210). -/
def boot (cfg : Config) (rom : List Byte) : Result :=
  match construct cfg with
  | .next s => runEvents [.host (.load rom), .host (.writeRunState .running)] s
  | .fault f => .fault f
  | .refused why => .refused why

/-- One frame of KEY_MODEL = per_frame: clear the keys, the keys down in this frame, `tickRate` Steps; the tick comes
with the last Step's count (R192). -/
def frameEvents (cfg : Config) (down : List Nat) : List Event :=
  .host .keysClear :: down.map (fun k => .host (.keyDown k)) ++ List.replicate cfg.tickRate .step

end Sys2Proof.Machine
end

