-- ==== Sys2Proof/Safety.lean ====
section
/-! DEFINITION. The terms claims are stated in: what an observer reads of a state, what "unchanged" means for each part
of it, the tables of the spec that claims quantify over (who writes what, who raises what, how `pc` moves, which quirk
acts where), the invariant of spec/10_state.md R26, reachable states and the ends of a run (spec/70_reset_and_hazards.md
R210). -/

namespace Sys2Proof.Machine

/-- The byte of memory at an address. -/
abbrev State.byteAt (s : State) (a : Nat) : Byte := s.memRead a

/-- The framebuffer cell at column `px`, row `py`. -/
abbrev State.cellAt (s : State) (px py : Nat) : Bool := Frame.lit s.fb (cellIndex s.cfg px py)

/-- A cell of the frame: `0 <= px < W` and `0 <= py < H` (R20). -/
def InFrame (s : State) (px py : Nat) : Prop := px < frameWidth s.cfg ∧ py < frameHeight s.cfg

/-! ### Frames: what an instruction leaves alone -/

/-- Every general register outside `rs` is unchanged. -/
def RegsUnchangedBut (rs : List Reg) (s t : State) : Prop := ∀ r, r ∉ rs → t.reg r = s.reg r

/-- Every byte of memory is unchanged. -/
def MemUnchanged (s t : State) : Prop := ∀ a, t.byteAt a = s.byteAt a

/-- Every byte of memory outside the `len` bytes at `base` is unchanged. -/
def MemUnchangedBut (base len : Nat) (s t : State) : Prop :=
  ∀ a, ¬(base ≤ a ∧ a < base + len) → t.byteAt a = s.byteAt a

/-- The call stack, its pointer and every slot, is unchanged. -/
def StackUnchanged (s t : State) : Prop := t.sp = s.sp ∧ t.stack = s.stack

/-- Both timers are unchanged. -/
def TimersUnchanged (s t : State) : Prop := t.dt = s.dt ∧ t.st = s.st

/-- What no instruction writes: the configuration, the key latches, `programSize`, `runState`, and what the host
keeps. -/
def HostUnchanged (s t : State) : Prop :=
  t.cfg = s.cfg ∧ t.keys = s.keys ∧ t.programSize = s.programSize ∧ t.runState = s.runState ∧
    t.frameStep = s.frameStep ∧ t.rom = s.rom

/-- Nothing but the registers `rs` and `pc` is changed. -/
structure OnlyRegsAndPc (rs : List Reg) (s t : State) : Prop where
  regs   : RegsUnchangedBut rs s t
  index  : t.index = s.index
  mem    : MemUnchanged s t
  fb     : t.fb = s.fb
  stack  : StackUnchanged s t
  timers : TimersUnchanged s t
  host   : HostUnchanged s t
  draws  : t.draws = s.draws

/-- Nothing but the stack, its pointer and `pc` is changed. -/
structure OnlyStackAndPc (s t : State) : Prop where
  regs   : RegsUnchangedBut [] s t
  index  : t.index = s.index
  mem    : MemUnchanged s t
  fb     : t.fb = s.fb
  timers : TimersUnchanged s t
  host   : HostUnchanged s t
  draws  : t.draws = s.draws

/-- Nothing but `I` and `pc` is changed. -/
structure OnlyIndexAndPc (s t : State) : Prop where
  regs   : RegsUnchangedBut [] s t
  mem    : MemUnchanged s t
  fb     : t.fb = s.fb
  stack  : StackUnchanged s t
  timers : TimersUnchanged s t
  host   : HostUnchanged s t
  draws  : t.draws = s.draws

/-- Nothing but the timers and `pc` is changed. -/
structure OnlyTimersAndPc (s t : State) : Prop where
  regs   : RegsUnchangedBut [] s t
  index  : t.index = s.index
  mem    : MemUnchanged s t
  fb     : t.fb = s.fb
  stack  : StackUnchanged s t
  host   : HostUnchanged s t
  draws  : t.draws = s.draws

/-- Nothing but the framebuffer, the registers `rs` and `pc` is changed. -/
structure OnlyFrameRegsAndPc (rs : List Reg) (s t : State) : Prop where
  regs   : RegsUnchangedBut rs s t
  index  : t.index = s.index
  mem    : MemUnchanged s t
  stack  : StackUnchanged s t
  timers : TimersUnchanged s t
  host   : HostUnchanged s t
  draws  : t.draws = s.draws

/-- Nothing but the `len` bytes at `base`, the registers `rs`, `I` and `pc` is changed. -/
structure OnlyTransferAndPc (base len : Nat) (rs : List Reg) (s t : State) : Prop where
  regs   : RegsUnchangedBut rs s t
  mem    : MemUnchangedBut base len s t
  fb     : t.fb = s.fb
  stack  : StackUnchanged s t
  timers : TimersUnchanged s t
  host   : HostUnchanged s t
  draws  : t.draws = s.draws

/-- Nothing but `runState` is changed. -/
structure OnlyRunState (s t : State) : Prop where
  regs        : RegsUnchangedBut [] s t
  pc          : t.pc = s.pc
  index       : t.index = s.index
  mem         : MemUnchanged s t
  fb          : t.fb = s.fb
  stack       : StackUnchanged s t
  timers      : TimersUnchanged s t
  cfg         : t.cfg = s.cfg
  keys        : t.keys = s.keys
  programSize : t.programSize = s.programSize
  frameStep   : t.frameStep = s.frameStep
  rom         : t.rom = s.rom
  draws       : t.draws = s.draws

/-! ### Results -/

/-- The result `r` in `V[x]` and the flag `c` in VF; for `x = 15` the one that FLAG_WRITE_ORDER writes last survives
(R120). -/
def ResultAndFlag (s t : State) (x : Reg) (r : Nat) (c : Bool) : Prop :=
  if x = VF then
    (t.reg VF).toNat = match s.cfg.flagWriteOrder with
      | .flagLast => if c then 1 else 0
      | .resultLast => r
  else (t.reg x).toNat = r ∧ (t.reg VF).toNat = if c then 1 else 0

/-- OR, AND and XOR write `r` to `V[x]`, and under VfReset also 0 to VF (R124 to R126). -/
def LogicResult (s t : State) (x : Reg) (r : Nat) : Prop :=
  if s.cfg.quirks.vfReset then ResultAndFlag s t x r false else (t.reg x).toNat = r

/-- The registers that OR, AND and XOR may change. -/
def logicDestinations (s : State) (x : Reg) : List Reg := if s.cfg.quirks.vfReset then [x, VF] else [x]

/-- A set pixel of the sprite of DRW Vx, Vy, n falls on column `px`, row `py`: bit 7 of a row's byte is its left
column; the origin is reduced modulo W and H, and each pixel too under WrapSprites (R141). -/
def SpritePixelAt (s : State) (x y : Reg) (n : Fin 16) (px py : Nat) : Prop :=
  ∃ r < n.val, ∃ c < 8, (s.byteAt (s.index.toNat + r)).getLsbD (7 - c) = true ∧
    if s.cfg.quirks.wrapSprites then
      px = ((s.reg x).toNat % frameWidth s.cfg + c) % frameWidth s.cfg ∧
        py = ((s.reg y).toNat % frameHeight s.cfg + r) % frameHeight s.cfg
    else px = (s.reg x).toNat % frameWidth s.cfg + c ∧ py = (s.reg y).toNat % frameHeight s.cfg + r

/-- Every byte that an access of `len` bytes at `I` needs lies inside memory (R47). -/
def RangeInMemory (s : State) (len : Nat) : Prop := len = 0 ∨ s.index.toNat + len ≤ 4096

/-! ### Tables of the spec over all instructions -/

/-- The exception an instruction raises at a state, if it raises one: the table of R180 with the conditions of R181. -/
def raised (i : Instr) (s : State) : Option Fault :=
  match i with
  | .ret => if s.sp.val = 0 then some (.stackUnderflow s.pc) else none
  | .call _ => if s.sp.val = 16 then some (.stackOverflow s.pc) else none
  | .skp x => if 15 < (s.reg x).toNat then some (.keyIndexOutOfRange (s.reg x)) else none
  | .sknp x => if 15 < (s.reg x).toNat then some (.keyIndexOutOfRange (s.reg x)) else none
  | .drw _ _ n =>
    if 0 < n.val ∧ 4096 ≤ s.index.toNat + n.val - 1 then some (.invalidAddress (max s.index.toNat 4096)) else none
  | .ldB _ => if 4096 ≤ s.index.toNat + 2 then some (.invalidAddress (max s.index.toNat 4096)) else none
  | .storeRegs x => if 4096 ≤ s.index.toNat + x.val then some (.invalidAddress (max s.index.toNat 4096)) else none
  | .loadRegs x => if 4096 ≤ s.index.toNat + x.val then some (.invalidAddress (max s.index.toNat 4096)) else none
  | _ => none

/-- The general registers an instruction may write: the destination its rule names, and VF for the nine of R12. -/
def writesReg (q : Quirks) (i : Instr) (r : Reg) : Bool :=
  match i with
  | .ldImm x _ => r == x
  | .addImm x _ => r == x
  | .ldReg x _ => r == x
  | .orReg x _ => r == x || (q.vfReset && r == VF)
  | .andReg x _ => r == x || (q.vfReset && r == VF)
  | .xorReg x _ => r == x || (q.vfReset && r == VF)
  | .addReg x _ => r == x || r == VF
  | .sub x _ => r == x || r == VF
  | .shr x _ => r == x || r == VF
  | .subn x _ => r == x || r == VF
  | .shl x _ => r == x || r == VF
  | .rnd x _ => r == x
  | .drw _ _ _ => r == VF
  | .ldVxDT x => r == x
  | .ldVxK x => r == x
  | .loadRegs x => decide (r ≤ x)
  | _ => false

/-- The instructions that write `I`: the block transfers only under LoadStoreIncrementIndex (R14). -/
def writesIndex (q : Quirks) : Instr → Bool
  | .ldI _ => true
  | .addI _ => true
  | .ldF _ => true
  | .storeRegs _ => q.loadStoreIncrementIndex
  | .loadRegs _ => q.loadStoreIncrementIndex
  | _ => false

/-- CALL alone writes the slots of the stack (R15). -/
def writesSlots : Instr → Bool
  | .call _ => true
  | _ => false

/-- CALL and RET move `SP` (R15). -/
def writesSp : Instr → Bool
  | .call _ => true
  | .ret => true
  | _ => false

/-- LD DT, Vx alone writes `DT` (R16). -/
def writesDt : Instr → Bool
  | .ldDTVx _ => true
  | _ => false

/-- LD ST, Vx alone writes `ST` (R16). -/
def writesSt : Instr → Bool
  | .ldSTVx _ => true
  | _ => false

/-- The two instructions of R43 that write memory. -/
def writesMem : Instr → Bool
  | .ldB _ => true
  | .storeRegs _ => true
  | _ => false

/-- How many bytes, from `I` on, an instruction stores: three digits for LD B, `x + 1` registers for LD [I]
(R164, R165). -/
def bytesStored : Instr → Nat
  | .ldB _ => 3
  | .storeRegs x => x.val + 1
  | _ => 0

/-- "One byte is drawn per executed RND and none otherwise" (R132). -/
def drawsByte : Instr → Bool
  | .rnd _ _ => true
  | _ => false

/-- "CLS and DRW write it" (R20). -/
def writesFb : Instr → Bool
  | .cls => true
  | .drw _ _ _ => true
  | _ => false

/-- The cells an instruction may change: all of them for CLS (R140), those under set sprite pixels for DRW (R141). -/
def MayChangeCell (i : Instr) (s : State) (px py : Nat) : Prop :=
  match i with
  | .cls => True
  | .drw x y n => SpritePixelAt s x y n px py
  | _ => False

/-- How an instruction that completes leaves `pc`: the table of R13. -/
def PcEnding (i : Instr) (s t : State) : Prop :=
  match i with
  | .seImm _ _ => t.pc = s.pc + 2 ∨ t.pc = s.pc + 4
  | .sneImm _ _ => t.pc = s.pc + 2 ∨ t.pc = s.pc + 4
  | .seReg _ _ => t.pc = s.pc + 2 ∨ t.pc = s.pc + 4
  | .sneReg _ _ => t.pc = s.pc + 2 ∨ t.pc = s.pc + 4
  | .skp _ => t.pc = s.pc + 2 ∨ t.pc = s.pc + 4
  | .sknp _ => t.pc = s.pc + 2 ∨ t.pc = s.pc + 4
  | .jp nnn => t.pc.toNat = nnn.toNat
  | .call nnn => t.pc.toNat = nnn.toNat
  | .jpV0 _ nnn => ∃ r, t.pc.toNat = nnn.toNat + (s.reg r).toNat
  | .ret => ∃ k : Fin 16, k.val + 1 = s.sp.val ∧ t.pc = s.stack[k] + 2
  | .ldVxK _ => if ∃ k, s.key k = true then t.pc = s.pc + 2 else t.pc = s.pc
  | _ => t.pc = s.pc + 2

/-- Two quirk sets that an instruction cannot tell apart: they agree on the flags that R5 lists for it. -/
def SameForQuirks (i : Instr) (q p : Quirks) : Prop :=
  match i with
  | .orReg _ _ => q.vfReset = p.vfReset
  | .andReg _ _ => q.vfReset = p.vfReset
  | .xorReg _ _ => q.vfReset = p.vfReset
  | .shr _ _ => q.shiftUsesSecondOperand = p.shiftUsesSecondOperand
  | .shl _ _ => q.shiftUsesSecondOperand = p.shiftUsesSecondOperand
  | .jpV0 _ _ => q.jumpAddsRegisterX = p.jumpAddsRegisterX
  | .drw _ _ _ => q.wrapSprites = p.wrapSprites
  | .storeRegs _ => q.loadStoreIncrementIndex = p.loadStoreIncrementIndex
  | .loadRegs _ => q.loadStoreIncrementIndex = p.loadStoreIncrementIndex
  | _ => True

/-- A machine like `s` whose configuration has other quirks. -/
def State.withQuirks (s : State) (q : Quirks) : State := { s with cfg := { s.cfg with quirks := q } }

/-- The same answer with its next state changed by `f`. -/
def mapNext (f : State → State) : Result → Result
  | .next t => .next (f t)
  | .fault e => .fault e
  | .refused why => .refused why

/-! ### Steps and fresh machines -/

/-- A Step is enabled: Running, and `pc` below the end of the program (R60, R195). -/
def StepEnabled (s : State) : Prop := s.runState = .running ∧ s.pc.toNat < 0x200 + s.programSize.val

/-- The word at `pc`, the high byte at the lower address (R44). -/
def wordAtPc (s : State) : Word := s.byteAt s.pc.toNat ++ s.byteAt (s.pc.toNat + 1)

/-- `u` is `t` once the Frame Driver has counted the Step taken at `s`, for the count, the timers and the latches: inside
the frame the count goes up and nothing else moves, and the `tickRate`-th Step ends the frame (R190, R192). -/
structure StepCounted (s t u : State) : Prop where
  within   : s.frameStep + 1 < s.cfg.tickRate → u.frameStep = s.frameStep + 1 ∧ TimersUnchanged t u ∧ u.keys = t.keys
  ended    : s.frameStep + 1 = s.cfg.tickRate → u.frameStep = 0
  paced    : s.frameStep + 1 = s.cfg.tickRate → s.cfg.tickModel = .paced →
    u.dt.toNat = t.dt.toNat - 1 ∧ u.st.toNat = t.st.toNat - 1
  free     : s.frameStep + 1 = s.cfg.tickRate → s.cfg.tickModel = .free → TimersUnchanged t u
  perFrame : s.frameStep + 1 = s.cfg.tickRate → s.cfg.keyModel = .perFrame → ∀ k, u.key k = false
  keysFree : s.frameStep + 1 = s.cfg.tickRate → s.cfg.keyModel = .free → u.keys = t.keys

/-- The host's arcs of the table of R194, Off to Running "after a successful load". -/
def HostMayWrite (s : State) (r : RunState) : Prop :=
  (s.runState = .off ∧ r = .running ∧ s.rom ≠ none) ∨ (s.runState = .running ∧ r = .paused) ∨
    (s.runState = .paused ∧ r = .running) ∨ r = .off

/-- A machine as the table of R27 has it after construction, but with `rom` loaded at 0x200 and in run state `run`
(R27, R200, R203, R205). -/
structure FreshWith (cfg : Config) (rom : List Byte) (run : RunState) (t : State) : Prop where
  config      : t.cfg = cfg
  regs        : ∀ r, t.reg r = 0
  pc          : t.pc = 0x200
  index       : t.index = 0
  sp          : t.sp.val = 0
  stack       : ∀ k : Fin 16, t.stack[k] = 0
  dt          : t.dt = 0
  st          : t.st = 0
  font        : ∀ (g : Fin 16) (j : Fin 5), t.byteAt (5 * g.val + j.val) = cfg.font[g][j]
  program     : ∀ (k : Nat) (h : k < rom.length), t.byteAt (0x200 + k) = rom[k]
  zeros       : ∀ a, 0x050 ≤ a → a ≤ 0xFFF → ¬(0x200 ≤ a ∧ a < 0x200 + rom.length) → t.byteAt a = 0
  keys        : ∀ k, t.key k = false
  blank       : ∀ px py, InFrame t px py → hasColor t px py = .ok false
  programSize : t.programSize.val = rom.length
  runState    : t.runState = run
  frameStep   : t.frameStep = 0

/-! ### The invariant -/

/-- The invariant of every reachable state: the bounds of R26 that the types do not carry already (memory and
framebuffer are canonical and inside their bounds, `pc` is at most 0x10FE), the frame counter is inside the frame
(R25), `programSize` is the kept image's length (R21, R203), and every stack slot holds an address a CALL was fetched
from, or 0 (R101). -/
structure State.Inv (s : State) : Prop where
  mem     : Memory.wf s.cfg.font s.mem
  fb      : Frame.wf s.cfg s.fb
  pc      : s.pc.toNat ≤ 0x10FE
  stack   : ∀ k : Fin 16, s.stack[k].toNat ≤ 4094
  frame   : s.frameStep < s.cfg.tickRate
  rom     : ∀ bytes, s.rom = some bytes → s.programSize.val = bytes.length

/-- The states that some machine can be in: constructed from a configuration R4 allows, then any events (R210). -/
inductive Reachable : State → Prop where
  | construct (cfg : Config) (s : State) (h : Machine.construct cfg = .next s) : Reachable s
  | event (s t : State) (e : Event) (hs : Reachable s) (h : applyEvent e s = .next t) : Reachable t

/-! ### The ends of a run (R210) -/

/-- The only natural end: the end-of-program transition has fired (R195, R210 a). -/
def Finished (s : State) : Prop := s.runState = .finished

/-- The five exceptions of R180, as against the stuck states and the load failure. -/
def Fault.isException : Fault → Bool
  | .invalidAddress _ => true
  | .invalidOpcode _ => true
  | .stackOverflow _ => true
  | .stackUnderflow _ => true
  | .keyIndexOutOfRange _ => true
  | .notRunning _ => false
  | .sizeExceeded _ => false

/-- The run of `k` steps from `s` is FAULTED: some step of it raises an exception (R210 b). -/
def FaultedWithin (k : Nat) (s : State) : Prop :=
  ∃ j f, j ≤ k ∧ Fault.isException f = true ∧ runEvents (List.replicate j .step) s = .fault f

end Sys2Proof.Machine
end

