-- ==== Sys2Proof/Certificates/Slice0/Obligations.lean ====
section
/-! DEFINITION. The statements for the provers: what the numbered rules of spec/ say of this machine. Each docstring
names the rule; OBLIGATIONS.json has the sentence. Addresses, results and flags are written as the rules' own
arithmetic on numbers, not as the model's operations. -/

open Sys2Proof Sys2Proof.Machine

/-! ## Encoding (30_encoding.md) -/

/-- R62: where the six fields lie, as numbers cut out of the word. The places of `y` and `n` are the spec's decision
D2. -/
def Obligations.FieldsAreCutAsTheSpecPlacesThem : Prop :=
  ∀ w : Word, (cut w).cls.toNat = w.toNat / 4096 ∧ (cut w).x.toNat = w.toNat / 256 % 16 ∧
    (cut w).y.toNat = w.toNat / 16 % 16 ∧ (cut w).n.toNat = w.toNat % 16 ∧ (cut w).nn.toNat = w.toNat % 256 ∧
    (cut w).nnn.toNat = w.toNat % 4096 ∧ w = (cut w).cls ++ (cut w).x ++ (cut w).y ++ (cut w).n

/-- R66: "a word w selects row r when w & mask_r = match_r", for the 34 rows with the match and mask that the table
gives, and no word selects a row otherwise. The numbers are the spec's decision D3, the strict matching D5. -/
def Obligations.RowsAreSelectedByMatchAndMask : Prop :=
  ∀ (w : Word) (k m a : Nat), (k, m, a) ∈ [
      (1, 0x00E0, 0xFFFF), (2, 0x00EE, 0xFFFF), (3, 0x1000, 0xF000), (4, 0x2000, 0xF000), (5, 0x3000, 0xF000),
      (6, 0x4000, 0xF000), (7, 0x5000, 0xF00F), (8, 0x6000, 0xF000), (9, 0x7000, 0xF000), (10, 0x8000, 0xF00F),
      (11, 0x8001, 0xF00F), (12, 0x8002, 0xF00F), (13, 0x8003, 0xF00F), (14, 0x8004, 0xF00F), (15, 0x8005, 0xF00F),
      (16, 0x8006, 0xF00F), (17, 0x8007, 0xF00F), (18, 0x800E, 0xF00F), (19, 0x9000, 0xF00F), (20, 0xA000, 0xF000),
      (21, 0xB000, 0xF000), (22, 0xC000, 0xF000), (23, 0xD000, 0xF000), (24, 0xE09E, 0xF0FF), (25, 0xE0A1, 0xF0FF),
      (26, 0xF007, 0xF0FF), (27, 0xF00A, 0xF0FF), (28, 0xF015, 0xF0FF), (29, 0xF018, 0xF0FF), (30, 0xF01E, 0xF0FF),
      (31, 0xF029, 0xF0FF), (32, 0xF033, 0xF0FF), (33, 0xF055, 0xF0FF), (34, 0xF065, 0xF0FF)] →
    ((dispatch (cut w)).map OpRow.row = some k ↔ w &&& BitVec.ofNat 16 a = BitVec.ofNat 16 m)

/-- R65: dispatch is total; a word that a row matches is the instruction that row makes of its fields, a word that no
row matches is `InvalidOpcode`, and no word matches two rows. Strict matching is the spec's decision D5. -/
def Obligations.DispatchIsTotalAndItsRowsAreDisjoint : Prop :=
  ∀ w : Word, (∀ r ∈ opcodeMap, r.matchesFields (cut w) = true → decode w = .ok (r.build (cut w))) ∧
    ((∀ r ∈ opcodeMap, r.matchesFields (cut w) = false) → decode w = .error (.invalidOpcode w)) ∧
    ∀ r ∈ opcodeMap, ∀ p ∈ opcodeMap, r.matchesFields (cut w) = true → p.matchesFields (cut w) = true →
      r.row = p.row

/-- R67: the illegal words, class by class; every other word is an instruction. The list is the spec's inference from
R66 (D3, D5). -/
def Obligations.IllegalWordsAreTheListedOnes : Prop :=
  ∀ w : Word, decode w = .error (.invalidOpcode w) ↔
    (w.toNat / 4096 = 0 ∧ w.toNat ≠ 0x00E0 ∧ w.toNat ≠ 0x00EE) ∨
    (w.toNat / 4096 = 5 ∧ w.toNat % 16 ≠ 0) ∨
    (w.toNat / 4096 = 8 ∧ w.toNat % 16 ∈ [8, 9, 0xA, 0xB, 0xC, 0xD, 0xF]) ∨
    (w.toNat / 4096 = 9 ∧ w.toNat % 16 ≠ 0) ∨
    (w.toNat / 4096 = 0xE ∧ w.toNat % 256 ∉ [0x9E, 0xA1]) ∨
    (w.toNat / 4096 = 0xF ∧ w.toNat % 256 ∉ [0x07, 0x0A, 0x15, 0x18, 0x1E, 0x29, 0x33, 0x55, 0x65])

/-- R62, R63, R66: decoding the bytes of a well-formed instruction gives that instruction, with every operand at every
value, and leaves the bytes after it. The byte order is the spec's decision D1. -/
def Obligations.DecodingAnEncodedInstructionGivesItBack : Prop :=
  ∀ (i : Instr) (rest : List Byte), i.wf = true → decodeBytes (encodeBytes i ++ rest) = .ok (i, rest)

/-- R62, R65, R66: each legal word has one meaning; it is the encoding of the well-formed instruction it decodes to. -/
def Obligations.ADecodedWordIsTheEncodingOfItsInstruction : Prop :=
  ∀ (w : Word) (i : Instr), decode w = .ok i → i.wf = true ∧ encode i = w

/-- R63, R66: every pattern of the opcode map, written as a number from the pattern's nibbles, decodes to its
instruction, for every value of the operand fields. The numbers of the patterns are the spec's decision D3. -/
def Obligations.EveryPatternDecodesToItsInstruction : Prop :=
  ∀ (x y : Reg) (n : Fin 16) (nn : Byte) (nnn : Addr12) (i : Instr) (w : Nat), (w, i) ∈ [
      (0x00E0, .cls), (0x00EE, .ret), (0x1000 + nnn.toNat, .jp nnn), (0x2000 + nnn.toNat, .call nnn),
      (0x3000 + 256 * x.val + nn.toNat, .seImm x nn), (0x4000 + 256 * x.val + nn.toNat, .sneImm x nn),
      (0x5000 + 256 * x.val + 16 * y.val, .seReg x y), (0x6000 + 256 * x.val + nn.toNat, .ldImm x nn),
      (0x7000 + 256 * x.val + nn.toNat, .addImm x nn)] ++ [
      (0x8000 + 256 * x.val + 16 * y.val, .ldReg x y), (0x8001 + 256 * x.val + 16 * y.val, .orReg x y),
      (0x8002 + 256 * x.val + 16 * y.val, .andReg x y), (0x8003 + 256 * x.val + 16 * y.val, .xorReg x y),
      (0x8004 + 256 * x.val + 16 * y.val, .addReg x y), (0x8005 + 256 * x.val + 16 * y.val, .sub x y),
      (0x8006 + 256 * x.val + 16 * y.val, .shr x y), (0x8007 + 256 * x.val + 16 * y.val, .subn x y),
      (0x800E + 256 * x.val + 16 * y.val, .shl x y), (0x9000 + 256 * x.val + 16 * y.val, .sneReg x y)] ++ [
      (0xA000 + nnn.toNat, .ldI nnn), (0xC000 + 256 * x.val + nn.toNat, .rnd x nn),
      (0xD000 + 256 * x.val + 16 * y.val + n.val, .drw x y n), (0xE09E + 256 * x.val, .skp x),
      (0xE0A1 + 256 * x.val, .sknp x), (0xF007 + 256 * x.val, .ldVxDT x), (0xF00A + 256 * x.val, .ldVxK x),
      (0xF015 + 256 * x.val, .ldDTVx x), (0xF018 + 256 * x.val, .ldSTVx x), (0xF01E + 256 * x.val, .addI x),
      (0xF029 + 256 * x.val, .ldF x), (0xF033 + 256 * x.val, .ldB x), (0xF055 + 256 * x.val, .storeRegs x),
      (0xF065 + 256 * x.val, .loadRegs x)] ++
      (if topNibbleIs x nnn then [(0xB000 + nnn.toNat, .jpV0 x nnn)] else []) →
    decode (BitVec.ofNat 16 w) = .ok i

/-- R66: one word of each family, written out from the spec's pattern. The numbers are the spec's decision D3. -/
def Obligations.WordsOfEachFamilyDecodeAsTheTableSays : Prop :=
  decode 0x00EE = .ok .ret ∧ decode 0x2ABC = .ok (.call 0xABC) ∧ decode 0xB3FF = .ok (.jpV0 3 0x3FF) ∧
    decode 0x6A02 = .ok (.ldImm 10 2) ∧ decode 0x8AB4 = .ok (.addReg 10 11) ∧ decode 0xD125 = .ok (.drw 1 2 5) ∧
    decode 0xE19E = .ok (.skp 1) ∧ decode 0xF40A = .ok (.ldVxK 4) ∧ decode 0xF265 = .ok (.loadRegs 2) ∧
    decode 0x5121 = .error (.invalidOpcode 0x5121)

/-! ## Construction, load, reset, boot (70_reset_and_hazards.md) -/

/-- R27, R200: a constructed machine has the table's value in every item; `construct` answers for every configuration
R4 allows. The values of `I`, the timers, the stack, the keys and `programSize` are the spec's decision D19; which
configurations are allowed rests on D23 and D40; that every combination of quirks is allowed in every variant is D23
(log 21). -/
def Obligations.ConstructionGivesTheResetTable : Prop :=
  ∀ cfg : Config, configWf cfg = true → ∃ t, construct cfg = .next t ∧ FreshWith cfg [] .off t

/-- R204: the bytes verbatim at 0x200 and `programSize`, nothing else; over 3584 bytes the load fails; a second load
is refused. The kept image (`rom`) is what R203 says the host keeps. An empty ROM is the spec's decision D33; the
order of the two checks is the model's choice (log 13). -/
def Obligations.LoadStoresTheRomVerbatimOrFails : Prop :=
  ∀ (s : State) (bytes : List Byte),
    (bytes.length ≤ 3584 → s.rom = none → ∃ t, load bytes s = .next t ∧
      (∀ (k : Nat) (h : k < bytes.length), t.byteAt (0x200 + k) = bytes[k]) ∧
      MemUnchangedBut 0x200 bytes.length s t ∧ t.programSize.val = bytes.length ∧ t.rom = some bytes ∧
      RegsUnchangedBut [] s t ∧ t.pc = s.pc ∧ t.index = s.index ∧ t.fb = s.fb ∧ StackUnchanged s t ∧
      TimersUnchanged s t ∧ t.cfg = s.cfg ∧ t.keys = s.keys ∧ t.runState = s.runState ∧
      t.frameStep = s.frameStep ∧ t.draws = s.draws) ∧
    (3584 < bytes.length → load bytes s = .fault (.sizeExceeded bytes.length)) ∧
    (bytes.length ≤ 3584 → s.rom ≠ none → load bytes s = .refused .secondLoad)

/-- R203: after `reset()` every item has its construction value, but the original ROM is in memory, `programSize` is
its length and the machine is Running; with no load before it, `reset()` is refused. The reload is the spec's decision
D21. -/
def Obligations.WarmResetReconstructsAndReloads : Prop :=
  ∀ s : State,
    (∀ bytes, s.rom = some bytes → bytes.length ≤ 3584 →
      ∃ t, reset s = .next t ∧ FreshWith s.cfg bytes .running t ∧ t.rom = some bytes) ∧
    (s.rom = none → reset s = .refused .resetBeforeLoad)

/-- R205: construct, load, Running: the launch state, for every configuration and ROM that R4 and R204 allow. The
construction values are D19's where the source has none; that the host writes Running is D32. Every
combination of quirks is allowed (D23, log 21). -/
def Obligations.BootEndsInTheLaunchState : Prop :=
  ∀ (cfg : Config) (rom : List Byte), configWf cfg = true → rom.length ≤ 3584 →
    ∃ t, boot cfg rom = .next t ∧ FreshWith cfg rom .running t ∧ t.rom = some rom

/-! ## The step (30_encoding.md R60, 60_exceptions.md) -/

/-- R60, R186, R190: a step at an enabled boundary, where the bytes at `pc` decode to `i`, is `exec i` there, then the
Frame Driver's count; a raised exception is the step's answer under `halt`, and is stepped over under `skip` (log 7).
The byte order is the spec's decision D1, the policies are D17's. -/
def Obligations.AStepRunsTheDecodedInstruction : Prop :=
  ∀ (s : State) (i : Instr), StepEnabled s → s.pc.toNat ≤ 4094 → decode (wordAtPc s) = .ok i →
    (∀ t, exec i s = .next t → step s = .next t.countStep) ∧
    (∀ f, exec i s = .fault f → s.cfg.faultPolicy = .halt → step s = .fault f) ∧
    (∀ f, exec i s = .fault f → s.cfg.faultPolicy = .skip → step s = .next s.skipFault.countStep)

/-- R47, R60, R181, R182, R185: the two faults that precede the handler's, in their order. The policy is D17's, strict
matching D5. That the fetch's `InvalidAddress` carries `pc` is the pseudocode of R8 and R60 and the model's reading
(log 16): R180's "first offending address" would be 4096 at `pc = 4095`. -/
def Obligations.FetchAndDispatchRaiseBeforeTheHandler : Prop :=
  ∀ s : State, StepEnabled s → s.cfg.faultPolicy = .halt →
    (4095 ≤ s.pc.toNat → step s = .fault (.invalidAddress s.pc.toNat)) ∧
    (s.pc.toNat ≤ 4094 → decode (wordAtPc s) = .error (.invalidOpcode (wordAtPc s)) →
      step s = .fault (.invalidOpcode (wordAtPc s)))

/-- R195: at or past the program's end no Step is taken; `runState` becomes Finished and nothing else changes,
whatever stands at `pc`. That the test is made at every Step boundary is the spec's decision D20. -/
def Obligations.ReachingTheProgramEndFinishesTheRun : Prop :=
  ∀ s : State, s.runState = .running → 0x200 + s.programSize.val ≤ s.pc.toNat →
    ∃ t, step s = .next t ∧ t.runState = .finished ∧ OnlyRunState s t

/-- R194 has no Step in Off, Paused and Finished. The answer of `step` there, a stop named after the run state, is the
model's choice (log 6). -/
def Obligations.NoStepIsEnabledOutsideRunning : Prop :=
  ∀ s : State, s.runState ≠ .running → step s = .fault (.notRunning s.runState)

/-- R186, R190: under FAULT_POLICY = skip a Step that raises, at the fetch, at dispatch or in its handler, changes `pc`
by 2 and is counted like any other Step, and nothing else is changed. Precise faults, the policy and the pacing are
the spec's decisions D16, D17, D25, D26 and D37. The model's choices are that `step` itself performs the host's `pc + 2`
and the count (log 7), that the keys are cleared at the frame's end, where R192 clears them first in the next frame
(log 8), and that Steps are counted under TICK_MODEL = free too (log 18). -/
def Obligations.SkipPolicyStepsOverAFaultingWord : Prop :=
  ∀ (s : State) (f : Fault), StepEnabled s → s.cfg.faultPolicy = .skip → coreStep s = .fault f →
    ∃ t, step s = .next t ∧ t.pc = s.pc + 2 ∧ StepCounted s s t ∧ RegsUnchangedBut [] s t ∧ t.index = s.index ∧
      MemUnchanged s t ∧ t.fb = s.fb ∧ StackUnchanged s t ∧ t.runState = .running ∧
      t.programSize = s.programSize ∧ t.cfg = s.cfg ∧ t.rom = s.rom ∧ t.draws = s.draws

/-- R190, R192 (log 7, log 8, log 18): after the instruction the Step is counted; within the frame timers and latches
are as the instruction left them, and the `tickRate`-th Step ends the frame: the count is 0, under `paced` each timer
has gone down by 1 unless it was 0, and under `per_frame` the keys are clear for the next frame. Everything else is as
the instruction left it. The pacing is the spec's decisions D25, D26 and D37. -/
def Obligations.TheLastStepOfAFrameTicksTheTimers : Prop :=
  ∀ (s t : State) (i : Instr), StepEnabled s → s.pc.toNat ≤ 4094 → decode (wordAtPc s) = .ok i →
    exec i s = .next t →
    ∃ u, step s = .next u ∧ StepCounted s t u ∧ RegsUnchangedBut [] t u ∧ u.pc = t.pc ∧ u.index = t.index ∧
      MemUnchanged t u ∧ u.fb = t.fb ∧ StackUnchanged t u ∧ u.runState = t.runState ∧
      u.programSize = t.programSize ∧ u.cfg = t.cfg ∧ u.rom = t.rom ∧ u.draws = t.draws

/-! ## Host operations (60_exceptions.md) -/

/-- R190: `frame_tick()` at a moment of the host's own, under TICK_MODEL = free while Running, changes the two timers
alone, each by 1 unless it is 0; under `paced`, and in Off, Paused and Finished, the host has no such call and it is
refused. When the host may tick is D25, D37 and the model's reading (log 9). -/
def Obligations.FrameTickCountsBothTimersDown : Prop :=
  ∀ s : State,
    (s.cfg.tickModel = .free → s.runState = .running →
      ∃ t, hostOp .frameTick s = .next t ∧ t.dt.toNat = s.dt.toNat - 1 ∧ t.st.toNat = s.st.toNat - 1 ∧
        OnlyTimersAndPc s t ∧ t.pc = s.pc) ∧
    (s.cfg.tickModel = .paced ∨ s.runState ≠ .running → hostOp .frameTick s = .refused .tickNotDue)

/-- R191, R192: `key_down(k)` sets one latch, `keys_clear()` clears all, at the start of a frame or anywhere under
KEY_MODEL = free; inside a frame under `per_frame` both are refused, and a `k` above 15 is refused anywhere. Where key
calls may fall is the spec's decision D26 and the model's reading (log 18). -/
def Obligations.KeyCallsSetOneLatchAndClearAll : Prop :=
  ∀ s : State,
    (s.cfg.keyModel = .free ∨ s.frameStep = 0 →
      (∀ k : Reg, ∃ t, hostOp (.keyDown k.val) s = .next t ∧ t.key k = true ∧ (∀ j, j ≠ k → t.key j = s.key j) ∧
        t = { s with keys := t.keys }) ∧
      (∃ t, hostOp .keysClear s = .next t ∧ (∀ j, t.key j = false) ∧ t = { s with keys := t.keys })) ∧
    (s.cfg.keyModel = .perFrame → s.frameStep ≠ 0 →
      (∀ k : Reg, hostOp (.keyDown k.val) s = .refused .keyCallInsideFrame) ∧
      hostOp .keysClear s = .refused .keyCallInsideFrame) ∧
    (∀ k : Nat, 16 ≤ k → hostOp (.keyDown k) s = .refused (.keyOutsideKeypad k))

/-- R193 (and R20, D24): `has_color` tells whether the cell at column `px`, row `py`, that is at linear position `py *
W + px`, is 1, it is refused outside the frame, and two cells of the frame never share a position. The linear order is
the spec's decision D24, the refusal D34. -/
def Obligations.HasColorReadsOneCellOfTheFrame : Prop :=
  ∀ (s : State) (px py : Nat),
    (InFrame s px py → (hasColor s px py = .ok true ↔ py * frameWidth s.cfg + px ∈ s.fb) ∧
      (hasColor s px py = .ok false ↔ py * frameWidth s.cfg + px ∉ s.fb) ∧
      ∀ qx qy, InFrame s qx qy → py * frameWidth s.cfg + px = qy * frameWidth s.cfg + qx → px = qx ∧ py = qy) ∧
    (¬InFrame s px py → hasColor s px py = .error (.outsideFrame px py))

/-- R194, R196: the host may write `runState` along the host's arcs of the table, Off to Running only after a load, a
write touches no other state, and every other write is refused. The writers are the spec's decision D32; the refusals
are the model's reading (log 14). -/
def Obligations.TheHostWritesRunStateAlongTheTable : Prop :=
  ∀ (s : State) (r : RunState),
    (HostMayWrite s r → ∃ t, hostOp (.writeRunState r) s = .next t ∧ t.runState = r ∧ OnlyRunState s t) ∧
    (¬HostMayWrite s r → hostOp (.writeRunState r) s = .refused (.runStateArc s.runState r))

/-! ## The invariant (10_state.md R26) -/

/-- The reset state is the machine constructed from the model's default configuration (log 1), and has the invariant. -/
def Obligations.TheResetStateHasTheInvariant : Prop :=
  construct defaultConfig = .next State.reset ∧ State.reset.Inv

/-- R26: every step keeps the invariant. R26 is the spec's inference; the canonical forms are the model's (logs 10,
11). -/
def Obligations.EveryStepKeepsTheInvariant : Prop :=
  ∀ s t : State, s.Inv → step s = .next t → t.Inv

/-- R26, R188: from any state that has the invariant, any event, a step or any host operation, that answers a next
state gives one that has it. R26 is the spec's inference; host operations as events are log 17. -/
def Obligations.EveryEventKeepsTheInvariant : Prop :=
  ∀ (s t : State) (e : Event), s.Inv → applyEvent e s = .next t → t.Inv

/-- R26: "These hold in every reachable state", over Steps and host operations in any order, for every configuration.
R26 is the spec's inference. -/
def Obligations.EveryReachableStateHasTheInvariant : Prop :=
  ∀ s : State, Reachable s → s.Inv

/-! ## All instructions at once -/

/-- R180, R181, R183: an instruction raises exactly where the table says, with the fault it names; everywhere else it
completes. The faults of R183, the bounds check of data and DRW of no rows are the spec's decisions D12 to D15 and
D30. -/
def Obligations.InstructionsRaiseExactlyWhereTheTableSays : Prop :=
  ∀ (i : Instr) (s : State),
    match raised i s with
    | some f => exec i s = .fault f
    | none => ∃ t, exec i s = .next t

/-- R12, R14 to R16, R20, R41, R43, R103, R132, R141, R163: an instruction changes no register, timer, stack slot, byte
or cell but those that its rule names: CALL one slot, LD B and LD [I] the bytes of their range at `I`, DRW the cells
under set sprite pixels. RND draws one byte and no other instruction draws. None changes what R19, R21 to R23 leave to
the host. The quirk gates are the spec's decisions D8 and D11, the draws D28. -/
def Obligations.InstructionsWriteOnlyWhatTheirRulesName : Prop :=
  ∀ (i : Instr) (s t : State), exec i s = .next t →
    (∀ r, writesReg s.cfg.quirks i r = false → t.reg r = s.reg r) ∧
    (writesIndex s.cfg.quirks i = false → t.index = s.index) ∧
    (writesSlots i = false → t.stack = s.stack) ∧
    (∀ k : Fin 16, k.val ≠ s.sp.val → t.stack[k] = s.stack[k]) ∧ (writesSp i = false → t.sp = s.sp) ∧
    (writesDt i = false → t.dt = s.dt) ∧ (writesSt i = false → t.st = s.st) ∧
    (writesMem i = false → MemUnchanged s t) ∧ MemUnchangedBut s.index.toNat (bytesStored i) s t ∧
    (writesFb i = false → t.fb = s.fb) ∧
    (∀ px py, InFrame s px py → ¬MayChangeCell i s px py → t.cellAt px py = s.cellAt px py) ∧
    (t.draws = if drawsByte i then s.draws + 1 else s.draws) ∧ HostUnchanged s t

/-- R13: "Each handler ends in exactly one of five ways". The `+ 2` of RET is the spec's decision D6. -/
def Obligations.HandlersEndAsThePcTableSays : Prop :=
  ∀ (i : Instr) (s t : State), exec i s = .next t → PcEnding i s t

/-- R5, R143: a quirk flag acts on the instructions R5 lists for it and on nothing else; WaitForBlank on none. The
flags' effects are the spec's decisions D8 to D11. -/
def Obligations.QuirksActOnTheirInstructionsOnly : Prop :=
  ∀ (i : Instr) (s : State) (q : Quirks), SameForQuirks i s.cfg.quirks q →
    exec i (s.withQuirks q) = mapNext (fun t => t.withQuirks q) (exec i s)

/-! ## Control flow (40_control_flow.md) -/

/-- R102. -/
def Obligations.JumpSetsPcToTheAddress : Prop :=
  ∀ (s : State) (nnn : Addr12), ∃ t, exec (.jp nnn) s = .next t ∧ t.pc.toNat = nnn.toNat ∧ OnlyRegsAndPc [] s t

/-- R103: CALL pushes its own address and jumps; with sixteen calls outstanding it raises. What is pushed is the
spec's decision D6, the fault D13. -/
def Obligations.CallPushesItsOwnAddress : Prop :=
  ∀ (s : State) (nnn : Addr12),
    (∀ k : Fin 16, s.sp.val = k.val → ∃ t, exec (.call nnn) s = .next t ∧ t.stack[k] = s.pc ∧
      (∀ j : Fin 16, j ≠ k → t.stack[j] = s.stack[j]) ∧ t.sp.val = s.sp.val + 1 ∧ t.pc.toNat = nnn.toNat ∧
      OnlyStackAndPc s t) ∧
    (s.sp.val = 16 → exec (.call nnn) s = .fault (.stackOverflow s.pc))

/-- R101: RET pops the top slot, whose content stays, and goes past the CALL; with the stack empty it raises. The `+
2` is the spec's decision D6, the fault D14. -/
def Obligations.ReturnGoesPastThePoppedCall : Prop :=
  ∀ s : State,
    (∀ k : Fin 16, s.sp.val = k.val + 1 → ∃ t, exec .ret s = .next t ∧ t.sp.val = k.val ∧
      t.pc = s.stack[k] + 2 ∧ t.stack = s.stack ∧ OnlyStackAndPc s t) ∧
    (s.sp.val = 0 → exec .ret s = .fault (.stackUnderflow s.pc))

/-- R101, R103, 90_conflicts.md C1: a call, then a return from any state that has the stack the call left, continues
at the instruction after the CALL with the caller's stack pointer. It rests on the spec's decision D6. -/
def Obligations.ReturnAfterCallContinuesAfterTheCall : Prop :=
  ∀ (s t u : State) (nnn : Addr12), exec (.call nnn) s = .next t → u.sp = t.sp → u.stack = t.stack →
    ∃ v, exec .ret u = .next v ∧ v.pc = s.pc + 2 ∧ v.sp = s.sp

/-- R104, R105. -/
def Obligations.ImmediateSkipsCompareAllEightBits : Prop :=
  ∀ (s : State) (x : Reg) (nn : Byte),
    (∃ t, exec (.seImm x nn) s = .next t ∧
      t.pc = (if (s.reg x).toNat = nn.toNat then s.pc + 4 else s.pc + 2) ∧ OnlyRegsAndPc [] s t) ∧
    (∃ t, exec (.sneImm x nn) s = .next t ∧
      t.pc = (if (s.reg x).toNat = nn.toNat then s.pc + 2 else s.pc + 4) ∧ OnlyRegsAndPc [] s t)

/-- R106, R107. -/
def Obligations.RegisterSkipsCompareAllEightBits : Prop :=
  ∀ (s : State) (x y : Reg),
    (∃ t, exec (.seReg x y) s = .next t ∧
      t.pc = (if (s.reg x).toNat = (s.reg y).toNat then s.pc + 4 else s.pc + 2) ∧ OnlyRegsAndPc [] s t) ∧
    (∃ t, exec (.sneReg x y) s = .next t ∧
      t.pc = (if (s.reg x).toNat = (s.reg y).toNat then s.pc + 2 else s.pc + 4) ∧ OnlyRegsAndPc [] s t)

/-- R108: the sum of the address and V0, or `V[x]` under the quirk, not reduced to 12 bits. What the flag does is the
spec's decision D9. -/
def Obligations.OffsetJumpAddsTheQuirksRegister : Prop :=
  ∀ (s : State) (x : Reg) (nnn : Addr12), topNibbleIs x nnn = true →
    ∃ t, exec (.jpV0 x nnn) s = .next t ∧ OnlyRegsAndPc [] s t ∧
      (s.cfg.quirks.jumpAddsRegisterX = false → t.pc.toNat = nnn.toNat + (s.reg 0).toNat) ∧
      (s.cfg.quirks.jumpAddsRegisterX = true →
        ∀ r : Reg, r.val = nnn.toNat / 256 → t.pc.toNat = nnn.toNat + (s.reg r).toNat)

/-! ## Load and ALU (41_load_alu.md) -/

/-- R121, R123. -/
def Obligations.LoadsCopyAnImmediateOrARegister : Prop :=
  ∀ (s : State) (x y : Reg) (nn : Byte),
    (∃ t, exec (.ldImm x nn) s = .next t ∧ t.reg x = nn ∧ t.pc = s.pc + 2 ∧ OnlyRegsAndPc [x] s t) ∧
    (∃ t, exec (.ldReg x y) s = .next t ∧ t.reg x = s.reg y ∧ t.pc = s.pc + 2 ∧ OnlyRegsAndPc [x] s t)

/-- R122: the sum wraps and no flag is written. -/
def Obligations.AddImmediateWrapsAndWritesNoFlag : Prop :=
  ∀ (s : State) (x : Reg) (nn : Byte), ∃ t, exec (.addImm x nn) s = .next t ∧
    (t.reg x).toNat = ((s.reg x).toNat + nn.toNat) % 256 ∧ t.pc = s.pc + 2 ∧ OnlyRegsAndPc [x] s t

/-- R124, R125, R126. The gate is the spec's decision D8; both orders of D7's parameter are covered. -/
def Obligations.LogicOperationsClearTheFlagUnderVfReset : Prop :=
  ∀ (s : State) (x y : Reg),
    (∃ t, exec (.orReg x y) s = .next t ∧ LogicResult s t x ((s.reg x).toNat ||| (s.reg y).toNat) ∧
      t.pc = s.pc + 2 ∧ OnlyRegsAndPc (logicDestinations s x) s t) ∧
    (∃ t, exec (.andReg x y) s = .next t ∧ LogicResult s t x ((s.reg x).toNat &&& (s.reg y).toNat) ∧
      t.pc = s.pc + 2 ∧ OnlyRegsAndPc (logicDestinations s x) s t) ∧
    (∃ t, exec (.xorReg x y) s = .next t ∧ LogicResult s t x ((s.reg x).toNat ^^^ (s.reg y).toNat) ∧
      t.pc = s.pc + 2 ∧ OnlyRegsAndPc (logicDestinations s x) s t)

/-- R127: sum modulo 256, VF = 1 iff the sum is 256 or more. For `x = 15` the order is R120's parameter (D7), and
both its values are covered. -/
def Obligations.AddRegistersSetsTheCarry : Prop :=
  ∀ (s : State) (x y : Reg), ∃ t, exec (.addReg x y) s = .next t ∧
    ResultAndFlag s t x (((s.reg x).toNat + (s.reg y).toNat) % 256) (256 ≤ (s.reg x).toNat + (s.reg y).toNat) ∧
    t.pc = s.pc + 2 ∧ OnlyRegsAndPc [x, VF] s t

/-- R128, R130: difference modulo 256, VF = 1 iff there is no borrow; SUBN exchanges the operands, not the
destination. SUBN's flag is the spec's inference from R128; both orders of D7's parameter are covered. -/
def Obligations.SubtractionsSetNotBorrow : Prop :=
  ∀ (s : State) (x y : Reg),
    (∃ t, exec (.sub x y) s = .next t ∧
      ResultAndFlag s t x (((s.reg x).toNat + 256 - (s.reg y).toNat) % 256) ((s.reg y).toNat ≤ (s.reg x).toNat) ∧
      t.pc = s.pc + 2 ∧ OnlyRegsAndPc [x, VF] s t) ∧
    (∃ t, exec (.subn x y) s = .next t ∧
      ResultAndFlag s t x (((s.reg y).toNat + 256 - (s.reg x).toNat) % 256) ((s.reg x).toNat ≤ (s.reg y).toNat) ∧
      t.pc = s.pc + 2 ∧ OnlyRegsAndPc [x, VF] s t)

/-- R129, R131: the value shifted is `V[y]` unless ShiftUsesSecondOperand is set, then `V[x]`; the bit shifted out
goes to VF. For `x = 15` the order is R120's parameter (D7), and both its values are covered. -/
def Obligations.ShiftsMoveTheBitShiftedOutToVF : Prop :=
  ∀ (s : State) (x y : Reg) (a : Nat),
    a = (if s.cfg.quirks.shiftUsesSecondOperand then (s.reg x).toNat else (s.reg y).toNat) →
    (∃ t, exec (.shr x y) s = .next t ∧ ResultAndFlag s t x (a / 2) (a % 2 = 1) ∧ t.pc = s.pc + 2 ∧
      OnlyRegsAndPc [x, VF] s t) ∧
    (∃ t, exec (.shl x y) s = .next t ∧ ResultAndFlag s t x (2 * a % 256) (128 ≤ a) ∧ t.pc = s.pc + 2 ∧
      OnlyRegsAndPc [x, VF] s t)

/-- R132: one byte of the free stream is drawn and masked; the result has no bit that `nn` lacks. Nothing is said of
the byte drawn (log 5). One draw for each RND is the spec's decision D28. -/
def Obligations.RandomMasksOneDrawnByte : Prop :=
  ∀ (s : State) (x : Reg) (nn : Byte), ∃ t, exec (.rnd x nn) s = .next t ∧
    (t.reg x).toNat = (Config.drawnByte s.draws).toNat &&& nn.toNat ∧
    (∀ k, (t.reg x).getLsbD k = true → nn.getLsbD k = true) ∧ t.draws = s.draws + 1 ∧ t.pc = s.pc + 2 ∧
    OnlyRegsAndPc [x] { s with draws := s.draws + 1 } t

/-! ## Display (42_display.md) -/

/-- R140: every cell of the frame becomes 0 and nothing else changes. -/
def Obligations.ClearScreenZeroesEveryCell : Prop :=
  ∀ s : State, ∃ t, exec .cls s = .next t ∧
    (∀ px py, InFrame t px py → hasColor t px py = .ok false) ∧ t.pc = s.pc + 2 ∧ OnlyFrameRegsAndPc [] s t

/-- R141: each cell of the frame on which a set sprite pixel falls is inverted, every other cell is unchanged, and VF
is 1 if one of the inverted cells was 1, else 0; if a sprite byte lies outside memory the instruction raises. The
bounds check, precise faults, DRW of no rows and what wraps are the spec's decisions D15, D16, D30, D31. -/
def Obligations.DrawXorsTheSpriteAndReportsCollision : Prop :=
  ∀ (s : State) (x y : Reg) (n : Fin 16),
    (RangeInMemory s n.val → ∃ t, exec (.drw x y n) s = .next t ∧
      (∀ px py, InFrame s px py → SpritePixelAt s x y n px py → t.cellAt px py = !s.cellAt px py) ∧
      (∀ px py, InFrame s px py → ¬SpritePixelAt s x y n px py → t.cellAt px py = s.cellAt px py) ∧
      ((∃ px py, InFrame s px py ∧ SpritePixelAt s x y n px py ∧ s.cellAt px py = true) → (t.reg VF).toNat = 1) ∧
      (¬(∃ px py, InFrame s px py ∧ SpritePixelAt s x y n px py ∧ s.cellAt px py = true) → (t.reg VF).toNat = 0) ∧
      t.pc = s.pc + 2 ∧ OnlyFrameRegsAndPc [VF] s t) ∧
    (¬RangeInMemory s n.val → exec (.drw x y n) s = .fault (.invalidAddress (max s.index.toNat 4096)))

/-- R142 (a), (b): the same DRW twice restores every cell; on a blank frame the first reports 0, and the second
reports 1 iff some set sprite pixel was visible. The law is the spec's inference from R141. -/
def Obligations.DrawingTwiceRestoresTheFrame : Prop :=
  ∀ (s t : State) (x y : Reg) (n : Fin 16), x ≠ VF → y ≠ VF → exec (.drw x y n) s = .next t →
    ∃ u, exec (.drw x y n) t = .next u ∧ (∀ px py, InFrame s px py → u.cellAt px py = s.cellAt px py) ∧
      ((∀ px py, InFrame s px py → s.cellAt px py = false) → (t.reg VF).toNat = 0 ∧
        ((u.reg VF).toNat = 1 ↔ ∃ px py, InFrame s px py ∧ SpritePixelAt s x y n px py))

/-! ## Keypad and timers (43_keypad_timers.md) -/

/-- R151, R152: the key is the one whose number `V[x]` holds; above 15 the instruction raises. The fault is the spec's
decision D12. -/
def Obligations.KeySkipsTestTheKeyVxNames : Prop :=
  ∀ (s : State) (x : Reg),
    (∀ k : Reg, (s.reg x).toNat = k.val →
      (∃ t, exec (.skp x) s = .next t ∧ t.pc = (if s.key k then s.pc + 4 else s.pc + 2) ∧ OnlyRegsAndPc [] s t) ∧
      (∃ t, exec (.sknp x) s = .next t ∧ t.pc = (if s.key k then s.pc + 2 else s.pc + 4) ∧ OnlyRegsAndPc [] s t)) ∧
    (15 < (s.reg x).toNat → exec (.skp x) s = .fault (.keyIndexOutOfRange (s.reg x)) ∧
      exec (.sknp x) s = .fault (.keyIndexOutOfRange (s.reg x)))

/-- R153: the lowest key down goes to `V[x]`; with no key down the Step completes and changes nothing. -/
def Obligations.WaitForKeyTakesTheLowestKeyDown : Prop :=
  ∀ (s : State) (x : Reg),
    (∀ k : Reg, s.key k = true → (∀ j, j < k → s.key j = false) →
      ∃ t, exec (.ldVxK x) s = .next t ∧ (t.reg x).toNat = k.val ∧ t.pc = s.pc + 2 ∧ OnlyRegsAndPc [x] s t) ∧
    ((∀ k, s.key k = false) → exec (.ldVxK x) s = .next s)

/-- R154, R155, R156. -/
def Obligations.TimerMovesCopyBetweenRegisterAndTimer : Prop :=
  ∀ (s : State) (x : Reg),
    (∃ t, exec (.ldVxDT x) s = .next t ∧ t.reg x = s.dt ∧ t.pc = s.pc + 2 ∧ OnlyRegsAndPc [x] s t) ∧
    (∃ t, exec (.ldDTVx x) s = .next t ∧ t.dt = s.reg x ∧ t.st = s.st ∧ t.pc = s.pc + 2 ∧ OnlyTimersAndPc s t) ∧
    (∃ t, exec (.ldSTVx x) s = .next t ∧ t.st = s.reg x ∧ t.dt = s.dt ∧ t.pc = s.pc + 2 ∧ OnlyTimersAndPc s t)

/-! ## Index and memory (44_index_memory.md) -/

/-- R160, R161, R162: the immediate, the 16-bit sum, five times the register with no masking; VF is not written. LD I
itself, the wrap and the missing mask are the spec's decisions D4, D18 and D39. -/
def Obligations.IndexIsSetAddedToOrPointedAtAGlyph : Prop :=
  ∀ (s : State) (x : Reg) (nnn : Addr12),
    (∃ t, exec (.ldI nnn) s = .next t ∧ t.index.toNat = nnn.toNat ∧ t.pc = s.pc + 2 ∧ OnlyIndexAndPc s t) ∧
    (∃ t, exec (.addI x) s = .next t ∧ t.index.toNat = (s.index.toNat + (s.reg x).toNat) % 65536 ∧
      t.pc = s.pc + 2 ∧ OnlyIndexAndPc s t) ∧
    (∃ t, exec (.ldF x) s = .next t ∧ t.index.toNat = 5 * (s.reg x).toNat ∧ t.pc = s.pc + 2 ∧ OnlyIndexAndPc s t)

/-- R164: hundreds, tens and ones at `I`, `I + 1`, `I + 2`; `I` and every other byte unchanged; raises when `I >=
4094`. The bounds check and precise faults are the spec's decisions D15 and D16. -/
def Obligations.BcdStoresThreeDigitsAtIndex : Prop :=
  ∀ (s : State) (x : Reg),
    (s.index.toNat ≤ 4093 → ∃ t, exec (.ldB x) s = .next t ∧
      (t.byteAt s.index.toNat).toNat = (s.reg x).toNat / 100 ∧
      (t.byteAt (s.index.toNat + 1)).toNat = (s.reg x).toNat / 10 % 10 ∧
      (t.byteAt (s.index.toNat + 2)).toNat = (s.reg x).toNat % 10 ∧
      t.index = s.index ∧ t.pc = s.pc + 2 ∧ OnlyTransferAndPc s.index.toNat 3 [] s t) ∧
    (4094 ≤ s.index.toNat → exec (.ldB x) s = .fault (.invalidAddress (max s.index.toNat 4096)))

/-- R165: V0 to Vx at `I` to `I + x`, every other byte unchanged; `I` moves by `x + 1` under the quirk only; raises
when `I + x >= 4096`. The increment is the spec's decision D11, precise faults D16. -/
def Obligations.BlockStoreWritesRegistersUpToX : Prop :=
  ∀ (s : State) (x : Reg),
    (s.index.toNat + x.val < 4096 → ∃ t, exec (.storeRegs x) s = .next t ∧
      (∀ r : Reg, r ≤ x → t.byteAt (s.index.toNat + r.val) = s.reg r) ∧
      t.index.toNat = (if s.cfg.quirks.loadStoreIncrementIndex then s.index.toNat + x.val + 1 else s.index.toNat) ∧
      t.pc = s.pc + 2 ∧ OnlyTransferAndPc s.index.toNat (x.val + 1) [] s t) ∧
    (4096 ≤ s.index.toNat + x.val → exec (.storeRegs x) s = .fault (.invalidAddress (max s.index.toNat 4096)))

/-- R166: V0 to Vx from `I` to `I + x`, every other register and all memory unchanged; `I` and the exception as for
the block store. The increment is the spec's decision D11, precise faults D16. -/
def Obligations.BlockLoadReadsRegistersUpToX : Prop :=
  ∀ (s : State) (x : Reg),
    (s.index.toNat + x.val < 4096 → ∃ t, exec (.loadRegs x) s = .next t ∧
      (∀ r : Reg, r ≤ x → t.reg r = s.byteAt (s.index.toNat + r.val)) ∧ (∀ r : Reg, x < r → t.reg r = s.reg r) ∧
      t.index.toNat = (if s.cfg.quirks.loadStoreIncrementIndex then s.index.toNat + x.val + 1 else s.index.toNat) ∧
      t.pc = s.pc + 2 ∧ MemUnchanged s t ∧ t.fb = s.fb ∧ StackUnchanged s t ∧ TimersUnchanged s t ∧
      HostUnchanged s t ∧ t.draws = s.draws) ∧
    (4096 ≤ s.index.toNat + x.val → exec (.loadRegs x) s = .fault (.invalidAddress (max s.index.toNat 4096)))

/-- R52: when a block store covers the two bytes of the next instruction, the next fetch reads the registers stored
there. R52 is the spec's inference (D36), the byte order D1. -/
def Obligations.AStoreIsSeenByTheNextFetch : Prop :=
  ∀ (s t : State) (x hi lo : Reg), exec (.storeRegs x) s = .next t → hi ≤ x → lo ≤ x →
    t.pc.toNat = s.index.toNat + hi.val → t.pc.toNat + 1 = s.index.toNat + lo.val →
    fetch t = .ok (s.reg hi ++ s.reg lo)

/-- R21 to R23, R25: `step` never changes the configuration, `programSize`, the kept image, or leaves Running for
anything but Finished. -/
def Obligations.StepsNeverWriteTheHostsItems : Prop :=
  ∀ s t : State, step s = .next t → t.cfg = s.cfg ∧ t.programSize = s.programSize ∧ t.rom = s.rom ∧
    s.runState = .running ∧ (t.runState = .running ∨ t.runState = .finished)
end

