-- ==== Sys2Proof/Laws/Encoding.lean ====
section
/-! SUPPORT. Cutting an encoded word gives back the fields it was made of, and the bytes of a word make that word
(R44, R62, R63). -/

namespace Sys2Proof

@[simp] theorem regOf_nibOf (r : Reg) : regOf (nibOf r) = r := rfl

@[simp] theorem nibOf_regOf (b : Nibble) : nibOf (regOf b) = b := rfl

@[simp] theorem toFin_nibOf (r : Reg) : (nibOf r).toFin = r := rfl

theorem extract_low {v w : Nat} (a : BitVec v) (b : BitVec w) (i n : Nat) (h : i + n ≤ w) :
    (a ++ b).extractLsb' i n = b.extractLsb' i n :=
  BitVec.extractLsb'_append_eq_of_add_le h

theorem extract_high {v w : Nat} (a : BitVec v) (b : BitVec w) (i n : Nat) (h : w ≤ i) :
    (a ++ b).extractLsb' i n = a.extractLsb' (i - w) n :=
  BitVec.extractLsb'_append_eq_of_le h

/-- The fields of a word of format NNN. -/
theorem cut_wordNNN (c : Nibble) (nnn : Addr12) :
    cut (wordNNN c nnn) = ⟨c, nnn.extractLsb' 8 4, nnn.extractLsb' 4 4, nnn.extractLsb' 0 4, nnn.extractLsb' 0 8,
      nnn⟩ := by
  unfold cut wordNNN
  congr 1
  · exact (extract_high c nnn 12 4 (by decide)).trans (by simp)
  · exact extract_low c nnn 8 4 (by decide)
  · exact extract_low c nnn 4 4 (by decide)
  · exact extract_low c nnn 0 4 (by decide)
  · exact extract_low c nnn 0 8 (by decide)
  · exact (extract_low c nnn 0 12 (by decide)).trans (by simp)

/-- The fields of a word of format XNN. -/
theorem cut_wordXNN (c : Nibble) (x : Reg) (nn : Byte) :
    cut (wordXNN c x nn) = ⟨c, nibOf x, nn.extractLsb' 4 4, nn.extractLsb' 0 4, nn,
      (wordXNN c x nn).extractLsb' 0 12⟩ := by
  unfold cut wordXNN
  congr 1
  · exact (extract_high (c ++ nibOf x) nn 12 4 (by decide)).trans
      ((extract_high c (nibOf x) 4 4 (by decide)).trans (by simp))
  · exact (extract_high (c ++ nibOf x) nn 8 4 (by decide)).trans
      ((extract_low c (nibOf x) 0 4 (by decide)).trans (by simp))
  · exact extract_low (c ++ nibOf x) nn 4 4 (by decide)
  · exact extract_low (c ++ nibOf x) nn 0 4 (by decide)
  · exact (extract_low (c ++ nibOf x) nn 0 8 (by decide)).trans (by simp)

/-- The fields of a word of format XY or XYN. -/
theorem cut_wordXYN (c : Nibble) (x y : Reg) (n : Nibble) :
    cut (wordXYN c x y n) = ⟨c, nibOf x, nibOf y, n, (wordXYN c x y n).extractLsb' 0 8,
      (wordXYN c x y n).extractLsb' 0 12⟩ := by
  unfold cut wordXYN
  congr 1
  · exact (extract_high (c ++ nibOf x ++ nibOf y) n 12 4 (by decide)).trans
      ((extract_high (c ++ nibOf x) (nibOf y) 8 4 (by decide)).trans
        ((extract_high c (nibOf x) 4 4 (by decide)).trans (by simp)))
  · exact (extract_high (c ++ nibOf x ++ nibOf y) n 8 4 (by decide)).trans
      ((extract_high (c ++ nibOf x) (nibOf y) 4 4 (by decide)).trans
        ((extract_low c (nibOf x) 0 4 (by decide)).trans (by simp)))
  · exact (extract_high (c ++ nibOf x ++ nibOf y) n 4 4 (by decide)).trans
      ((extract_low (c ++ nibOf x) (nibOf y) 0 4 (by decide)).trans (by simp))
  · exact (extract_low (c ++ nibOf x ++ nibOf y) n 0 4 (by decide)).trans (by simp)

theorem append_toNat {v w : Nat} (a : BitVec v) (b : BitVec w) : (a ++ b).toNat = a.toNat * 2 ^ w + b.toNat := by
  rw [BitVec.toNat_append, ← Nat.shiftLeft_add_eq_or_of_lt b.isLt, Nat.shiftLeft_eq]

/-- The words of the formats as numbers (R63). -/
theorem wordNNN_eq_ofNat (c : Nibble) (nnn : Addr12) :
    wordNNN c nnn = BitVec.ofNat 16 (4096 * c.toNat + nnn.toNat) := by
  apply BitVec.eq_of_toNat_eq
  have h : (wordNNN c nnn).toNat = c.toNat * 2 ^ 12 + nnn.toNat := append_toNat c nnn
  have := (wordNNN c nnn).isLt
  rw [BitVec.toNat_ofNat]
  omega

theorem wordXNN_eq_ofNat (c : Nibble) (x : Reg) (nn : Byte) :
    wordXNN c x nn = BitVec.ofNat 16 (4096 * c.toNat + 256 * x.val + nn.toNat) := by
  apply BitVec.eq_of_toNat_eq
  have h : (wordXNN c x nn).toNat = (c ++ nibOf x).toNat * 2 ^ 8 + nn.toNat := append_toNat (c ++ nibOf x) nn
  have h' : (c ++ nibOf x).toNat = c.toNat * 2 ^ 4 + x.val := append_toNat c (nibOf x)
  have := (wordXNN c x nn).isLt
  rw [BitVec.toNat_ofNat]
  omega

theorem wordXYN_eq_ofNat (c : Nibble) (x y : Reg) (n : Nibble) :
    wordXYN c x y n = BitVec.ofNat 16 (4096 * c.toNat + 256 * x.val + 16 * y.val + n.toNat) := by
  apply BitVec.eq_of_toNat_eq
  have h : (wordXYN c x y n).toNat = (c ++ nibOf x ++ nibOf y).toNat * 2 ^ 4 + n.toNat :=
    append_toNat (c ++ nibOf x ++ nibOf y) n
  have h' : (c ++ nibOf x ++ nibOf y).toNat = (c ++ nibOf x).toNat * 2 ^ 4 + y.val :=
    append_toNat (c ++ nibOf x) (nibOf y)
  have h2 : (c ++ nibOf x).toNat = c.toNat * 2 ^ 4 + x.val := append_toNat c (nibOf x)
  have := (wordXYN c x y n).isLt
  rw [BitVec.toNat_ofNat]
  omega

/-- A byte is its two nibbles. -/
theorem nibbles_of_byte (b : Byte) : b.extractLsb' 4 4 ++ b.extractLsb' 0 4 = b := by
  simpa using BitVec.extractLsb'_append_extractLsb'_eq_extractLsb' (w := 8) (x := b) (start₁ := 0) (start₂ := 4)
    (len₁ := 4) (len₂ := 4) rfl

/-- The bytes of a word, the high byte first, make that word again (R44). -/
@[simp] theorem wordOfBytes_bytesOfWord (w : Word) : wordOfBytes (w.extractLsb' 8 8) (w.extractLsb' 0 8) = w := by
  unfold wordOfBytes
  simpa using BitVec.extractLsb'_append_extractLsb'_eq_extractLsb' (w := 16) (x := w) (start₁ := 0) (start₂ := 8)
    (len₁ := 8) (len₂ := 8) rfl

/-- A word is its class, x, y and n (R62). -/
theorem nibbles_of_word (w : Word) : (cut w).cls ++ (cut w).x ++ (cut w).y ++ (cut w).n = w := by
  have h1 := BitVec.extractLsb'_append_extractLsb'_eq_extractLsb' (w := 16) (x := w) (start₁ := 8) (start₂ := 12)
    (len₁ := 4) (len₂ := 4) rfl
  have h2 := BitVec.extractLsb'_append_extractLsb'_eq_extractLsb' (w := 16) (x := w) (start₁ := 4) (start₂ := 8)
    (len₁ := 4) (len₂ := 8) rfl
  have h3 := BitVec.extractLsb'_append_extractLsb'_eq_extractLsb' (w := 16) (x := w) (start₁ := 0) (start₂ := 4)
    (len₁ := 4) (len₂ := 12) rfl
  unfold cut
  simp only [Nat.reduceAdd] at h1 h2 h3
  simp [h1, h2, h3]

/-- Decoding the two bytes of a word, whatever follows them, is decoding the word. -/
theorem decodeBytes_bytesOfWord (w : Word) (rest : List Byte) :
    decodeBytes (bytesOfWord w ++ rest) = (decode w).map (fun i => (i, rest)) := by
  show (match decode (wordOfBytes (w.extractLsb' 8 8) (w.extractLsb' 0 8)) with
    | .ok i => Except.ok (i, rest)
    | .error e => .error e) = _
  rw [wordOfBytes_bytesOfWord]
  cases decode w <;> rfl

end Sys2Proof
end

