-- ==== Sys2Proof/Laws/State.lean ====
section
/-! SUPPORT. One lemma for each field of State under each update, true by rfl: no later proof unfolds a record update. -/

namespace Sys2Proof.Machine

/-! ### setRegs -/

@[simp] theorem State.setRegs_cfg (s : State) (v : Vector Byte 16) : (s.setRegs v).cfg = s.cfg := rfl
@[simp] theorem State.setRegs_regs (s : State) (v : Vector Byte 16) : (s.setRegs v).regs = v := rfl
@[simp] theorem State.setRegs_pc (s : State) (v : Vector Byte 16) : (s.setRegs v).pc = s.pc := rfl
@[simp] theorem State.setRegs_index (s : State) (v : Vector Byte 16) : (s.setRegs v).index = s.index := rfl
@[simp] theorem State.setRegs_stack (s : State) (v : Vector Byte 16) : (s.setRegs v).stack = s.stack := rfl
@[simp] theorem State.setRegs_sp (s : State) (v : Vector Byte 16) : (s.setRegs v).sp = s.sp := rfl
@[simp] theorem State.setRegs_dt (s : State) (v : Vector Byte 16) : (s.setRegs v).dt = s.dt := rfl
@[simp] theorem State.setRegs_st (s : State) (v : Vector Byte 16) : (s.setRegs v).st = s.st := rfl
@[simp] theorem State.setRegs_mem (s : State) (v : Vector Byte 16) : (s.setRegs v).mem = s.mem := rfl
@[simp] theorem State.setRegs_keys (s : State) (v : Vector Byte 16) : (s.setRegs v).keys = s.keys := rfl
@[simp] theorem State.setRegs_fb (s : State) (v : Vector Byte 16) : (s.setRegs v).fb = s.fb := rfl
@[simp] theorem State.setRegs_programSize (s : State) (v : Vector Byte 16) : (s.setRegs v).programSize = s.programSize := rfl
@[simp] theorem State.setRegs_runState (s : State) (v : Vector Byte 16) : (s.setRegs v).runState = s.runState := rfl
@[simp] theorem State.setRegs_frameStep (s : State) (v : Vector Byte 16) : (s.setRegs v).frameStep = s.frameStep := rfl
@[simp] theorem State.setRegs_rom (s : State) (v : Vector Byte 16) : (s.setRegs v).rom = s.rom := rfl
@[simp] theorem State.setRegs_draws (s : State) (v : Vector Byte 16) : (s.setRegs v).draws = s.draws := rfl
@[simp] theorem State.setRegs_key (s : State) (v : Vector Byte 16) (k : Reg) : (s.setRegs v).key k = s.key k := rfl
@[simp] theorem State.setRegs_memRead (s : State) (v : Vector Byte 16) (a : Nat) : (s.setRegs v).memRead a = s.memRead a := rfl

/-! ### setPc -/

@[simp] theorem State.setPc_cfg (s : State) (v : Word) : (s.setPc v).cfg = s.cfg := rfl
@[simp] theorem State.setPc_regs (s : State) (v : Word) : (s.setPc v).regs = s.regs := rfl
@[simp] theorem State.setPc_pc (s : State) (v : Word) : (s.setPc v).pc = v := rfl
@[simp] theorem State.setPc_index (s : State) (v : Word) : (s.setPc v).index = s.index := rfl
@[simp] theorem State.setPc_stack (s : State) (v : Word) : (s.setPc v).stack = s.stack := rfl
@[simp] theorem State.setPc_sp (s : State) (v : Word) : (s.setPc v).sp = s.sp := rfl
@[simp] theorem State.setPc_dt (s : State) (v : Word) : (s.setPc v).dt = s.dt := rfl
@[simp] theorem State.setPc_st (s : State) (v : Word) : (s.setPc v).st = s.st := rfl
@[simp] theorem State.setPc_mem (s : State) (v : Word) : (s.setPc v).mem = s.mem := rfl
@[simp] theorem State.setPc_keys (s : State) (v : Word) : (s.setPc v).keys = s.keys := rfl
@[simp] theorem State.setPc_fb (s : State) (v : Word) : (s.setPc v).fb = s.fb := rfl
@[simp] theorem State.setPc_programSize (s : State) (v : Word) : (s.setPc v).programSize = s.programSize := rfl
@[simp] theorem State.setPc_runState (s : State) (v : Word) : (s.setPc v).runState = s.runState := rfl
@[simp] theorem State.setPc_frameStep (s : State) (v : Word) : (s.setPc v).frameStep = s.frameStep := rfl
@[simp] theorem State.setPc_rom (s : State) (v : Word) : (s.setPc v).rom = s.rom := rfl
@[simp] theorem State.setPc_draws (s : State) (v : Word) : (s.setPc v).draws = s.draws := rfl
@[simp] theorem State.setPc_reg (s : State) (v : Word) (i : Reg) : (s.setPc v).reg i = s.reg i := rfl
@[simp] theorem State.setPc_key (s : State) (v : Word) (k : Reg) : (s.setPc v).key k = s.key k := rfl
@[simp] theorem State.setPc_memRead (s : State) (v : Word) (a : Nat) : (s.setPc v).memRead a = s.memRead a := rfl

/-! ### setIndex -/

@[simp] theorem State.setIndex_cfg (s : State) (v : Word) : (s.setIndex v).cfg = s.cfg := rfl
@[simp] theorem State.setIndex_regs (s : State) (v : Word) : (s.setIndex v).regs = s.regs := rfl
@[simp] theorem State.setIndex_pc (s : State) (v : Word) : (s.setIndex v).pc = s.pc := rfl
@[simp] theorem State.setIndex_index (s : State) (v : Word) : (s.setIndex v).index = v := rfl
@[simp] theorem State.setIndex_stack (s : State) (v : Word) : (s.setIndex v).stack = s.stack := rfl
@[simp] theorem State.setIndex_sp (s : State) (v : Word) : (s.setIndex v).sp = s.sp := rfl
@[simp] theorem State.setIndex_dt (s : State) (v : Word) : (s.setIndex v).dt = s.dt := rfl
@[simp] theorem State.setIndex_st (s : State) (v : Word) : (s.setIndex v).st = s.st := rfl
@[simp] theorem State.setIndex_mem (s : State) (v : Word) : (s.setIndex v).mem = s.mem := rfl
@[simp] theorem State.setIndex_keys (s : State) (v : Word) : (s.setIndex v).keys = s.keys := rfl
@[simp] theorem State.setIndex_fb (s : State) (v : Word) : (s.setIndex v).fb = s.fb := rfl
@[simp] theorem State.setIndex_programSize (s : State) (v : Word) : (s.setIndex v).programSize = s.programSize := rfl
@[simp] theorem State.setIndex_runState (s : State) (v : Word) : (s.setIndex v).runState = s.runState := rfl
@[simp] theorem State.setIndex_frameStep (s : State) (v : Word) : (s.setIndex v).frameStep = s.frameStep := rfl
@[simp] theorem State.setIndex_rom (s : State) (v : Word) : (s.setIndex v).rom = s.rom := rfl
@[simp] theorem State.setIndex_draws (s : State) (v : Word) : (s.setIndex v).draws = s.draws := rfl
@[simp] theorem State.setIndex_reg (s : State) (v : Word) (i : Reg) : (s.setIndex v).reg i = s.reg i := rfl
@[simp] theorem State.setIndex_key (s : State) (v : Word) (k : Reg) : (s.setIndex v).key k = s.key k := rfl
@[simp] theorem State.setIndex_memRead (s : State) (v : Word) (a : Nat) : (s.setIndex v).memRead a = s.memRead a := rfl

/-! ### setStack -/

@[simp] theorem State.setStack_cfg (s : State) (v : Vector Word 16) : (s.setStack v).cfg = s.cfg := rfl
@[simp] theorem State.setStack_regs (s : State) (v : Vector Word 16) : (s.setStack v).regs = s.regs := rfl
@[simp] theorem State.setStack_pc (s : State) (v : Vector Word 16) : (s.setStack v).pc = s.pc := rfl
@[simp] theorem State.setStack_index (s : State) (v : Vector Word 16) : (s.setStack v).index = s.index := rfl
@[simp] theorem State.setStack_stack (s : State) (v : Vector Word 16) : (s.setStack v).stack = v := rfl
@[simp] theorem State.setStack_sp (s : State) (v : Vector Word 16) : (s.setStack v).sp = s.sp := rfl
@[simp] theorem State.setStack_dt (s : State) (v : Vector Word 16) : (s.setStack v).dt = s.dt := rfl
@[simp] theorem State.setStack_st (s : State) (v : Vector Word 16) : (s.setStack v).st = s.st := rfl
@[simp] theorem State.setStack_mem (s : State) (v : Vector Word 16) : (s.setStack v).mem = s.mem := rfl
@[simp] theorem State.setStack_keys (s : State) (v : Vector Word 16) : (s.setStack v).keys = s.keys := rfl
@[simp] theorem State.setStack_fb (s : State) (v : Vector Word 16) : (s.setStack v).fb = s.fb := rfl
@[simp] theorem State.setStack_programSize (s : State) (v : Vector Word 16) : (s.setStack v).programSize = s.programSize := rfl
@[simp] theorem State.setStack_runState (s : State) (v : Vector Word 16) : (s.setStack v).runState = s.runState := rfl
@[simp] theorem State.setStack_frameStep (s : State) (v : Vector Word 16) : (s.setStack v).frameStep = s.frameStep := rfl
@[simp] theorem State.setStack_rom (s : State) (v : Vector Word 16) : (s.setStack v).rom = s.rom := rfl
@[simp] theorem State.setStack_draws (s : State) (v : Vector Word 16) : (s.setStack v).draws = s.draws := rfl
@[simp] theorem State.setStack_reg (s : State) (v : Vector Word 16) (i : Reg) : (s.setStack v).reg i = s.reg i := rfl
@[simp] theorem State.setStack_key (s : State) (v : Vector Word 16) (k : Reg) : (s.setStack v).key k = s.key k := rfl
@[simp] theorem State.setStack_memRead (s : State) (v : Vector Word 16) (a : Nat) : (s.setStack v).memRead a = s.memRead a := rfl

/-! ### setSp -/

@[simp] theorem State.setSp_cfg (s : State) (v : Fin 17) : (s.setSp v).cfg = s.cfg := rfl
@[simp] theorem State.setSp_regs (s : State) (v : Fin 17) : (s.setSp v).regs = s.regs := rfl
@[simp] theorem State.setSp_pc (s : State) (v : Fin 17) : (s.setSp v).pc = s.pc := rfl
@[simp] theorem State.setSp_index (s : State) (v : Fin 17) : (s.setSp v).index = s.index := rfl
@[simp] theorem State.setSp_stack (s : State) (v : Fin 17) : (s.setSp v).stack = s.stack := rfl
@[simp] theorem State.setSp_sp (s : State) (v : Fin 17) : (s.setSp v).sp = v := rfl
@[simp] theorem State.setSp_dt (s : State) (v : Fin 17) : (s.setSp v).dt = s.dt := rfl
@[simp] theorem State.setSp_st (s : State) (v : Fin 17) : (s.setSp v).st = s.st := rfl
@[simp] theorem State.setSp_mem (s : State) (v : Fin 17) : (s.setSp v).mem = s.mem := rfl
@[simp] theorem State.setSp_keys (s : State) (v : Fin 17) : (s.setSp v).keys = s.keys := rfl
@[simp] theorem State.setSp_fb (s : State) (v : Fin 17) : (s.setSp v).fb = s.fb := rfl
@[simp] theorem State.setSp_programSize (s : State) (v : Fin 17) : (s.setSp v).programSize = s.programSize := rfl
@[simp] theorem State.setSp_runState (s : State) (v : Fin 17) : (s.setSp v).runState = s.runState := rfl
@[simp] theorem State.setSp_frameStep (s : State) (v : Fin 17) : (s.setSp v).frameStep = s.frameStep := rfl
@[simp] theorem State.setSp_rom (s : State) (v : Fin 17) : (s.setSp v).rom = s.rom := rfl
@[simp] theorem State.setSp_draws (s : State) (v : Fin 17) : (s.setSp v).draws = s.draws := rfl
@[simp] theorem State.setSp_reg (s : State) (v : Fin 17) (i : Reg) : (s.setSp v).reg i = s.reg i := rfl
@[simp] theorem State.setSp_key (s : State) (v : Fin 17) (k : Reg) : (s.setSp v).key k = s.key k := rfl
@[simp] theorem State.setSp_memRead (s : State) (v : Fin 17) (a : Nat) : (s.setSp v).memRead a = s.memRead a := rfl

/-! ### setDt -/

@[simp] theorem State.setDt_cfg (s : State) (v : Byte) : (s.setDt v).cfg = s.cfg := rfl
@[simp] theorem State.setDt_regs (s : State) (v : Byte) : (s.setDt v).regs = s.regs := rfl
@[simp] theorem State.setDt_pc (s : State) (v : Byte) : (s.setDt v).pc = s.pc := rfl
@[simp] theorem State.setDt_index (s : State) (v : Byte) : (s.setDt v).index = s.index := rfl
@[simp] theorem State.setDt_stack (s : State) (v : Byte) : (s.setDt v).stack = s.stack := rfl
@[simp] theorem State.setDt_sp (s : State) (v : Byte) : (s.setDt v).sp = s.sp := rfl
@[simp] theorem State.setDt_dt (s : State) (v : Byte) : (s.setDt v).dt = v := rfl
@[simp] theorem State.setDt_st (s : State) (v : Byte) : (s.setDt v).st = s.st := rfl
@[simp] theorem State.setDt_mem (s : State) (v : Byte) : (s.setDt v).mem = s.mem := rfl
@[simp] theorem State.setDt_keys (s : State) (v : Byte) : (s.setDt v).keys = s.keys := rfl
@[simp] theorem State.setDt_fb (s : State) (v : Byte) : (s.setDt v).fb = s.fb := rfl
@[simp] theorem State.setDt_programSize (s : State) (v : Byte) : (s.setDt v).programSize = s.programSize := rfl
@[simp] theorem State.setDt_runState (s : State) (v : Byte) : (s.setDt v).runState = s.runState := rfl
@[simp] theorem State.setDt_frameStep (s : State) (v : Byte) : (s.setDt v).frameStep = s.frameStep := rfl
@[simp] theorem State.setDt_rom (s : State) (v : Byte) : (s.setDt v).rom = s.rom := rfl
@[simp] theorem State.setDt_draws (s : State) (v : Byte) : (s.setDt v).draws = s.draws := rfl
@[simp] theorem State.setDt_reg (s : State) (v : Byte) (i : Reg) : (s.setDt v).reg i = s.reg i := rfl
@[simp] theorem State.setDt_key (s : State) (v : Byte) (k : Reg) : (s.setDt v).key k = s.key k := rfl
@[simp] theorem State.setDt_memRead (s : State) (v : Byte) (a : Nat) : (s.setDt v).memRead a = s.memRead a := rfl

/-! ### setSt -/

@[simp] theorem State.setSt_cfg (s : State) (v : Byte) : (s.setSt v).cfg = s.cfg := rfl
@[simp] theorem State.setSt_regs (s : State) (v : Byte) : (s.setSt v).regs = s.regs := rfl
@[simp] theorem State.setSt_pc (s : State) (v : Byte) : (s.setSt v).pc = s.pc := rfl
@[simp] theorem State.setSt_index (s : State) (v : Byte) : (s.setSt v).index = s.index := rfl
@[simp] theorem State.setSt_stack (s : State) (v : Byte) : (s.setSt v).stack = s.stack := rfl
@[simp] theorem State.setSt_sp (s : State) (v : Byte) : (s.setSt v).sp = s.sp := rfl
@[simp] theorem State.setSt_dt (s : State) (v : Byte) : (s.setSt v).dt = s.dt := rfl
@[simp] theorem State.setSt_st (s : State) (v : Byte) : (s.setSt v).st = v := rfl
@[simp] theorem State.setSt_mem (s : State) (v : Byte) : (s.setSt v).mem = s.mem := rfl
@[simp] theorem State.setSt_keys (s : State) (v : Byte) : (s.setSt v).keys = s.keys := rfl
@[simp] theorem State.setSt_fb (s : State) (v : Byte) : (s.setSt v).fb = s.fb := rfl
@[simp] theorem State.setSt_programSize (s : State) (v : Byte) : (s.setSt v).programSize = s.programSize := rfl
@[simp] theorem State.setSt_runState (s : State) (v : Byte) : (s.setSt v).runState = s.runState := rfl
@[simp] theorem State.setSt_frameStep (s : State) (v : Byte) : (s.setSt v).frameStep = s.frameStep := rfl
@[simp] theorem State.setSt_rom (s : State) (v : Byte) : (s.setSt v).rom = s.rom := rfl
@[simp] theorem State.setSt_draws (s : State) (v : Byte) : (s.setSt v).draws = s.draws := rfl
@[simp] theorem State.setSt_reg (s : State) (v : Byte) (i : Reg) : (s.setSt v).reg i = s.reg i := rfl
@[simp] theorem State.setSt_key (s : State) (v : Byte) (k : Reg) : (s.setSt v).key k = s.key k := rfl
@[simp] theorem State.setSt_memRead (s : State) (v : Byte) (a : Nat) : (s.setSt v).memRead a = s.memRead a := rfl

/-! ### setMem -/

@[simp] theorem State.setMem_cfg (s : State) (v : Memory) : (s.setMem v).cfg = s.cfg := rfl
@[simp] theorem State.setMem_regs (s : State) (v : Memory) : (s.setMem v).regs = s.regs := rfl
@[simp] theorem State.setMem_pc (s : State) (v : Memory) : (s.setMem v).pc = s.pc := rfl
@[simp] theorem State.setMem_index (s : State) (v : Memory) : (s.setMem v).index = s.index := rfl
@[simp] theorem State.setMem_stack (s : State) (v : Memory) : (s.setMem v).stack = s.stack := rfl
@[simp] theorem State.setMem_sp (s : State) (v : Memory) : (s.setMem v).sp = s.sp := rfl
@[simp] theorem State.setMem_dt (s : State) (v : Memory) : (s.setMem v).dt = s.dt := rfl
@[simp] theorem State.setMem_st (s : State) (v : Memory) : (s.setMem v).st = s.st := rfl
@[simp] theorem State.setMem_mem (s : State) (v : Memory) : (s.setMem v).mem = v := rfl
@[simp] theorem State.setMem_keys (s : State) (v : Memory) : (s.setMem v).keys = s.keys := rfl
@[simp] theorem State.setMem_fb (s : State) (v : Memory) : (s.setMem v).fb = s.fb := rfl
@[simp] theorem State.setMem_programSize (s : State) (v : Memory) : (s.setMem v).programSize = s.programSize := rfl
@[simp] theorem State.setMem_runState (s : State) (v : Memory) : (s.setMem v).runState = s.runState := rfl
@[simp] theorem State.setMem_frameStep (s : State) (v : Memory) : (s.setMem v).frameStep = s.frameStep := rfl
@[simp] theorem State.setMem_rom (s : State) (v : Memory) : (s.setMem v).rom = s.rom := rfl
@[simp] theorem State.setMem_draws (s : State) (v : Memory) : (s.setMem v).draws = s.draws := rfl
@[simp] theorem State.setMem_reg (s : State) (v : Memory) (i : Reg) : (s.setMem v).reg i = s.reg i := rfl
@[simp] theorem State.setMem_key (s : State) (v : Memory) (k : Reg) : (s.setMem v).key k = s.key k := rfl

/-! ### setKeys -/

@[simp] theorem State.setKeys_cfg (s : State) (v : Vector Bool 16) : (s.setKeys v).cfg = s.cfg := rfl
@[simp] theorem State.setKeys_regs (s : State) (v : Vector Bool 16) : (s.setKeys v).regs = s.regs := rfl
@[simp] theorem State.setKeys_pc (s : State) (v : Vector Bool 16) : (s.setKeys v).pc = s.pc := rfl
@[simp] theorem State.setKeys_index (s : State) (v : Vector Bool 16) : (s.setKeys v).index = s.index := rfl
@[simp] theorem State.setKeys_stack (s : State) (v : Vector Bool 16) : (s.setKeys v).stack = s.stack := rfl
@[simp] theorem State.setKeys_sp (s : State) (v : Vector Bool 16) : (s.setKeys v).sp = s.sp := rfl
@[simp] theorem State.setKeys_dt (s : State) (v : Vector Bool 16) : (s.setKeys v).dt = s.dt := rfl
@[simp] theorem State.setKeys_st (s : State) (v : Vector Bool 16) : (s.setKeys v).st = s.st := rfl
@[simp] theorem State.setKeys_mem (s : State) (v : Vector Bool 16) : (s.setKeys v).mem = s.mem := rfl
@[simp] theorem State.setKeys_keys (s : State) (v : Vector Bool 16) : (s.setKeys v).keys = v := rfl
@[simp] theorem State.setKeys_fb (s : State) (v : Vector Bool 16) : (s.setKeys v).fb = s.fb := rfl
@[simp] theorem State.setKeys_programSize (s : State) (v : Vector Bool 16) : (s.setKeys v).programSize = s.programSize := rfl
@[simp] theorem State.setKeys_runState (s : State) (v : Vector Bool 16) : (s.setKeys v).runState = s.runState := rfl
@[simp] theorem State.setKeys_frameStep (s : State) (v : Vector Bool 16) : (s.setKeys v).frameStep = s.frameStep := rfl
@[simp] theorem State.setKeys_rom (s : State) (v : Vector Bool 16) : (s.setKeys v).rom = s.rom := rfl
@[simp] theorem State.setKeys_draws (s : State) (v : Vector Bool 16) : (s.setKeys v).draws = s.draws := rfl
@[simp] theorem State.setKeys_reg (s : State) (v : Vector Bool 16) (i : Reg) : (s.setKeys v).reg i = s.reg i := rfl
@[simp] theorem State.setKeys_memRead (s : State) (v : Vector Bool 16) (a : Nat) : (s.setKeys v).memRead a = s.memRead a := rfl

/-! ### setFb -/

@[simp] theorem State.setFb_cfg (s : State) (v : Frame) : (s.setFb v).cfg = s.cfg := rfl
@[simp] theorem State.setFb_regs (s : State) (v : Frame) : (s.setFb v).regs = s.regs := rfl
@[simp] theorem State.setFb_pc (s : State) (v : Frame) : (s.setFb v).pc = s.pc := rfl
@[simp] theorem State.setFb_index (s : State) (v : Frame) : (s.setFb v).index = s.index := rfl
@[simp] theorem State.setFb_stack (s : State) (v : Frame) : (s.setFb v).stack = s.stack := rfl
@[simp] theorem State.setFb_sp (s : State) (v : Frame) : (s.setFb v).sp = s.sp := rfl
@[simp] theorem State.setFb_dt (s : State) (v : Frame) : (s.setFb v).dt = s.dt := rfl
@[simp] theorem State.setFb_st (s : State) (v : Frame) : (s.setFb v).st = s.st := rfl
@[simp] theorem State.setFb_mem (s : State) (v : Frame) : (s.setFb v).mem = s.mem := rfl
@[simp] theorem State.setFb_keys (s : State) (v : Frame) : (s.setFb v).keys = s.keys := rfl
@[simp] theorem State.setFb_fb (s : State) (v : Frame) : (s.setFb v).fb = v := rfl
@[simp] theorem State.setFb_programSize (s : State) (v : Frame) : (s.setFb v).programSize = s.programSize := rfl
@[simp] theorem State.setFb_runState (s : State) (v : Frame) : (s.setFb v).runState = s.runState := rfl
@[simp] theorem State.setFb_frameStep (s : State) (v : Frame) : (s.setFb v).frameStep = s.frameStep := rfl
@[simp] theorem State.setFb_rom (s : State) (v : Frame) : (s.setFb v).rom = s.rom := rfl
@[simp] theorem State.setFb_draws (s : State) (v : Frame) : (s.setFb v).draws = s.draws := rfl
@[simp] theorem State.setFb_reg (s : State) (v : Frame) (i : Reg) : (s.setFb v).reg i = s.reg i := rfl
@[simp] theorem State.setFb_key (s : State) (v : Frame) (k : Reg) : (s.setFb v).key k = s.key k := rfl
@[simp] theorem State.setFb_memRead (s : State) (v : Frame) (a : Nat) : (s.setFb v).memRead a = s.memRead a := rfl

/-! ### setProgramSize -/

@[simp] theorem State.setProgramSize_cfg (s : State) (v : Fin 3585) : (s.setProgramSize v).cfg = s.cfg := rfl
@[simp] theorem State.setProgramSize_regs (s : State) (v : Fin 3585) : (s.setProgramSize v).regs = s.regs := rfl
@[simp] theorem State.setProgramSize_pc (s : State) (v : Fin 3585) : (s.setProgramSize v).pc = s.pc := rfl
@[simp] theorem State.setProgramSize_index (s : State) (v : Fin 3585) : (s.setProgramSize v).index = s.index := rfl
@[simp] theorem State.setProgramSize_stack (s : State) (v : Fin 3585) : (s.setProgramSize v).stack = s.stack := rfl
@[simp] theorem State.setProgramSize_sp (s : State) (v : Fin 3585) : (s.setProgramSize v).sp = s.sp := rfl
@[simp] theorem State.setProgramSize_dt (s : State) (v : Fin 3585) : (s.setProgramSize v).dt = s.dt := rfl
@[simp] theorem State.setProgramSize_st (s : State) (v : Fin 3585) : (s.setProgramSize v).st = s.st := rfl
@[simp] theorem State.setProgramSize_mem (s : State) (v : Fin 3585) : (s.setProgramSize v).mem = s.mem := rfl
@[simp] theorem State.setProgramSize_keys (s : State) (v : Fin 3585) : (s.setProgramSize v).keys = s.keys := rfl
@[simp] theorem State.setProgramSize_fb (s : State) (v : Fin 3585) : (s.setProgramSize v).fb = s.fb := rfl
@[simp] theorem State.setProgramSize_programSize (s : State) (v : Fin 3585) : (s.setProgramSize v).programSize = v := rfl
@[simp] theorem State.setProgramSize_runState (s : State) (v : Fin 3585) : (s.setProgramSize v).runState = s.runState := rfl
@[simp] theorem State.setProgramSize_frameStep (s : State) (v : Fin 3585) : (s.setProgramSize v).frameStep = s.frameStep := rfl
@[simp] theorem State.setProgramSize_rom (s : State) (v : Fin 3585) : (s.setProgramSize v).rom = s.rom := rfl
@[simp] theorem State.setProgramSize_draws (s : State) (v : Fin 3585) : (s.setProgramSize v).draws = s.draws := rfl
@[simp] theorem State.setProgramSize_reg (s : State) (v : Fin 3585) (i : Reg) : (s.setProgramSize v).reg i = s.reg i := rfl
@[simp] theorem State.setProgramSize_key (s : State) (v : Fin 3585) (k : Reg) : (s.setProgramSize v).key k = s.key k := rfl
@[simp] theorem State.setProgramSize_memRead (s : State) (v : Fin 3585) (a : Nat) : (s.setProgramSize v).memRead a = s.memRead a := rfl

/-! ### setRunState -/

@[simp] theorem State.setRunState_cfg (s : State) (v : RunState) : (s.setRunState v).cfg = s.cfg := rfl
@[simp] theorem State.setRunState_regs (s : State) (v : RunState) : (s.setRunState v).regs = s.regs := rfl
@[simp] theorem State.setRunState_pc (s : State) (v : RunState) : (s.setRunState v).pc = s.pc := rfl
@[simp] theorem State.setRunState_index (s : State) (v : RunState) : (s.setRunState v).index = s.index := rfl
@[simp] theorem State.setRunState_stack (s : State) (v : RunState) : (s.setRunState v).stack = s.stack := rfl
@[simp] theorem State.setRunState_sp (s : State) (v : RunState) : (s.setRunState v).sp = s.sp := rfl
@[simp] theorem State.setRunState_dt (s : State) (v : RunState) : (s.setRunState v).dt = s.dt := rfl
@[simp] theorem State.setRunState_st (s : State) (v : RunState) : (s.setRunState v).st = s.st := rfl
@[simp] theorem State.setRunState_mem (s : State) (v : RunState) : (s.setRunState v).mem = s.mem := rfl
@[simp] theorem State.setRunState_keys (s : State) (v : RunState) : (s.setRunState v).keys = s.keys := rfl
@[simp] theorem State.setRunState_fb (s : State) (v : RunState) : (s.setRunState v).fb = s.fb := rfl
@[simp] theorem State.setRunState_programSize (s : State) (v : RunState) : (s.setRunState v).programSize = s.programSize := rfl
@[simp] theorem State.setRunState_runState (s : State) (v : RunState) : (s.setRunState v).runState = v := rfl
@[simp] theorem State.setRunState_frameStep (s : State) (v : RunState) : (s.setRunState v).frameStep = s.frameStep := rfl
@[simp] theorem State.setRunState_rom (s : State) (v : RunState) : (s.setRunState v).rom = s.rom := rfl
@[simp] theorem State.setRunState_draws (s : State) (v : RunState) : (s.setRunState v).draws = s.draws := rfl
@[simp] theorem State.setRunState_reg (s : State) (v : RunState) (i : Reg) : (s.setRunState v).reg i = s.reg i := rfl
@[simp] theorem State.setRunState_key (s : State) (v : RunState) (k : Reg) : (s.setRunState v).key k = s.key k := rfl
@[simp] theorem State.setRunState_memRead (s : State) (v : RunState) (a : Nat) : (s.setRunState v).memRead a = s.memRead a := rfl

/-! ### setFrameStep -/

@[simp] theorem State.setFrameStep_cfg (s : State) (v : Nat) : (s.setFrameStep v).cfg = s.cfg := rfl
@[simp] theorem State.setFrameStep_regs (s : State) (v : Nat) : (s.setFrameStep v).regs = s.regs := rfl
@[simp] theorem State.setFrameStep_pc (s : State) (v : Nat) : (s.setFrameStep v).pc = s.pc := rfl
@[simp] theorem State.setFrameStep_index (s : State) (v : Nat) : (s.setFrameStep v).index = s.index := rfl
@[simp] theorem State.setFrameStep_stack (s : State) (v : Nat) : (s.setFrameStep v).stack = s.stack := rfl
@[simp] theorem State.setFrameStep_sp (s : State) (v : Nat) : (s.setFrameStep v).sp = s.sp := rfl
@[simp] theorem State.setFrameStep_dt (s : State) (v : Nat) : (s.setFrameStep v).dt = s.dt := rfl
@[simp] theorem State.setFrameStep_st (s : State) (v : Nat) : (s.setFrameStep v).st = s.st := rfl
@[simp] theorem State.setFrameStep_mem (s : State) (v : Nat) : (s.setFrameStep v).mem = s.mem := rfl
@[simp] theorem State.setFrameStep_keys (s : State) (v : Nat) : (s.setFrameStep v).keys = s.keys := rfl
@[simp] theorem State.setFrameStep_fb (s : State) (v : Nat) : (s.setFrameStep v).fb = s.fb := rfl
@[simp] theorem State.setFrameStep_programSize (s : State) (v : Nat) : (s.setFrameStep v).programSize = s.programSize := rfl
@[simp] theorem State.setFrameStep_runState (s : State) (v : Nat) : (s.setFrameStep v).runState = s.runState := rfl
@[simp] theorem State.setFrameStep_frameStep (s : State) (v : Nat) : (s.setFrameStep v).frameStep = v := rfl
@[simp] theorem State.setFrameStep_rom (s : State) (v : Nat) : (s.setFrameStep v).rom = s.rom := rfl
@[simp] theorem State.setFrameStep_draws (s : State) (v : Nat) : (s.setFrameStep v).draws = s.draws := rfl
@[simp] theorem State.setFrameStep_reg (s : State) (v : Nat) (i : Reg) : (s.setFrameStep v).reg i = s.reg i := rfl
@[simp] theorem State.setFrameStep_key (s : State) (v : Nat) (k : Reg) : (s.setFrameStep v).key k = s.key k := rfl
@[simp] theorem State.setFrameStep_memRead (s : State) (v : Nat) (a : Nat) : (s.setFrameStep v).memRead a = s.memRead a := rfl

/-! ### setRom -/

@[simp] theorem State.setRom_cfg (s : State) (v : Option (List Byte)) : (s.setRom v).cfg = s.cfg := rfl
@[simp] theorem State.setRom_regs (s : State) (v : Option (List Byte)) : (s.setRom v).regs = s.regs := rfl
@[simp] theorem State.setRom_pc (s : State) (v : Option (List Byte)) : (s.setRom v).pc = s.pc := rfl
@[simp] theorem State.setRom_index (s : State) (v : Option (List Byte)) : (s.setRom v).index = s.index := rfl
@[simp] theorem State.setRom_stack (s : State) (v : Option (List Byte)) : (s.setRom v).stack = s.stack := rfl
@[simp] theorem State.setRom_sp (s : State) (v : Option (List Byte)) : (s.setRom v).sp = s.sp := rfl
@[simp] theorem State.setRom_dt (s : State) (v : Option (List Byte)) : (s.setRom v).dt = s.dt := rfl
@[simp] theorem State.setRom_st (s : State) (v : Option (List Byte)) : (s.setRom v).st = s.st := rfl
@[simp] theorem State.setRom_mem (s : State) (v : Option (List Byte)) : (s.setRom v).mem = s.mem := rfl
@[simp] theorem State.setRom_keys (s : State) (v : Option (List Byte)) : (s.setRom v).keys = s.keys := rfl
@[simp] theorem State.setRom_fb (s : State) (v : Option (List Byte)) : (s.setRom v).fb = s.fb := rfl
@[simp] theorem State.setRom_programSize (s : State) (v : Option (List Byte)) : (s.setRom v).programSize = s.programSize := rfl
@[simp] theorem State.setRom_runState (s : State) (v : Option (List Byte)) : (s.setRom v).runState = s.runState := rfl
@[simp] theorem State.setRom_frameStep (s : State) (v : Option (List Byte)) : (s.setRom v).frameStep = s.frameStep := rfl
@[simp] theorem State.setRom_rom (s : State) (v : Option (List Byte)) : (s.setRom v).rom = v := rfl
@[simp] theorem State.setRom_draws (s : State) (v : Option (List Byte)) : (s.setRom v).draws = s.draws := rfl
@[simp] theorem State.setRom_reg (s : State) (v : Option (List Byte)) (i : Reg) : (s.setRom v).reg i = s.reg i := rfl
@[simp] theorem State.setRom_key (s : State) (v : Option (List Byte)) (k : Reg) : (s.setRom v).key k = s.key k := rfl
@[simp] theorem State.setRom_memRead (s : State) (v : Option (List Byte)) (a : Nat) : (s.setRom v).memRead a = s.memRead a := rfl

/-! ### setDraws -/

@[simp] theorem State.setDraws_cfg (s : State) (v : Nat) : (s.setDraws v).cfg = s.cfg := rfl
@[simp] theorem State.setDraws_regs (s : State) (v : Nat) : (s.setDraws v).regs = s.regs := rfl
@[simp] theorem State.setDraws_pc (s : State) (v : Nat) : (s.setDraws v).pc = s.pc := rfl
@[simp] theorem State.setDraws_index (s : State) (v : Nat) : (s.setDraws v).index = s.index := rfl
@[simp] theorem State.setDraws_stack (s : State) (v : Nat) : (s.setDraws v).stack = s.stack := rfl
@[simp] theorem State.setDraws_sp (s : State) (v : Nat) : (s.setDraws v).sp = s.sp := rfl
@[simp] theorem State.setDraws_dt (s : State) (v : Nat) : (s.setDraws v).dt = s.dt := rfl
@[simp] theorem State.setDraws_st (s : State) (v : Nat) : (s.setDraws v).st = s.st := rfl
@[simp] theorem State.setDraws_mem (s : State) (v : Nat) : (s.setDraws v).mem = s.mem := rfl
@[simp] theorem State.setDraws_keys (s : State) (v : Nat) : (s.setDraws v).keys = s.keys := rfl
@[simp] theorem State.setDraws_fb (s : State) (v : Nat) : (s.setDraws v).fb = s.fb := rfl
@[simp] theorem State.setDraws_programSize (s : State) (v : Nat) : (s.setDraws v).programSize = s.programSize := rfl
@[simp] theorem State.setDraws_runState (s : State) (v : Nat) : (s.setDraws v).runState = s.runState := rfl
@[simp] theorem State.setDraws_frameStep (s : State) (v : Nat) : (s.setDraws v).frameStep = s.frameStep := rfl
@[simp] theorem State.setDraws_rom (s : State) (v : Nat) : (s.setDraws v).rom = s.rom := rfl
@[simp] theorem State.setDraws_draws (s : State) (v : Nat) : (s.setDraws v).draws = v := rfl
@[simp] theorem State.setDraws_reg (s : State) (v : Nat) (i : Reg) : (s.setDraws v).reg i = s.reg i := rfl
@[simp] theorem State.setDraws_key (s : State) (v : Nat) (k : Reg) : (s.setDraws v).key k = s.key k := rfl
@[simp] theorem State.setDraws_memRead (s : State) (v : Nat) (a : Nat) : (s.setDraws v).memRead a = s.memRead a := rfl

/-! ### setReg -/

@[simp] theorem State.setReg_cfg (s : State) (i : Reg) (v : Byte) : (s.setReg i v).cfg = s.cfg := rfl
@[simp] theorem State.setReg_regs (s : State) (i : Reg) (v : Byte) : (s.setReg i v).regs = s.regs.set i v := rfl
@[simp] theorem State.setReg_pc (s : State) (i : Reg) (v : Byte) : (s.setReg i v).pc = s.pc := rfl
@[simp] theorem State.setReg_index (s : State) (i : Reg) (v : Byte) : (s.setReg i v).index = s.index := rfl
@[simp] theorem State.setReg_stack (s : State) (i : Reg) (v : Byte) : (s.setReg i v).stack = s.stack := rfl
@[simp] theorem State.setReg_sp (s : State) (i : Reg) (v : Byte) : (s.setReg i v).sp = s.sp := rfl
@[simp] theorem State.setReg_dt (s : State) (i : Reg) (v : Byte) : (s.setReg i v).dt = s.dt := rfl
@[simp] theorem State.setReg_st (s : State) (i : Reg) (v : Byte) : (s.setReg i v).st = s.st := rfl
@[simp] theorem State.setReg_mem (s : State) (i : Reg) (v : Byte) : (s.setReg i v).mem = s.mem := rfl
@[simp] theorem State.setReg_keys (s : State) (i : Reg) (v : Byte) : (s.setReg i v).keys = s.keys := rfl
@[simp] theorem State.setReg_fb (s : State) (i : Reg) (v : Byte) : (s.setReg i v).fb = s.fb := rfl
@[simp] theorem State.setReg_programSize (s : State) (i : Reg) (v : Byte) : (s.setReg i v).programSize = s.programSize := rfl
@[simp] theorem State.setReg_runState (s : State) (i : Reg) (v : Byte) : (s.setReg i v).runState = s.runState := rfl
@[simp] theorem State.setReg_frameStep (s : State) (i : Reg) (v : Byte) : (s.setReg i v).frameStep = s.frameStep := rfl
@[simp] theorem State.setReg_rom (s : State) (i : Reg) (v : Byte) : (s.setReg i v).rom = s.rom := rfl
@[simp] theorem State.setReg_draws (s : State) (i : Reg) (v : Byte) : (s.setReg i v).draws = s.draws := rfl
@[simp] theorem State.setReg_key (s : State) (i : Reg) (v : Byte) (k : Reg) : (s.setReg i v).key k = s.key k := rfl
@[simp] theorem State.setReg_memRead (s : State) (i : Reg) (v : Byte) (adr : Nat) : (s.setReg i v).memRead adr = s.memRead adr := rfl

/-! ### setFlag -/

@[simp] theorem State.setFlag_cfg (s : State) (c : Bool) : (s.setFlag c).cfg = s.cfg := rfl
@[simp] theorem State.setFlag_regs (s : State) (c : Bool) : (s.setFlag c).regs = s.regs.set VF (flagByte c) := rfl
@[simp] theorem State.setFlag_pc (s : State) (c : Bool) : (s.setFlag c).pc = s.pc := rfl
@[simp] theorem State.setFlag_index (s : State) (c : Bool) : (s.setFlag c).index = s.index := rfl
@[simp] theorem State.setFlag_stack (s : State) (c : Bool) : (s.setFlag c).stack = s.stack := rfl
@[simp] theorem State.setFlag_sp (s : State) (c : Bool) : (s.setFlag c).sp = s.sp := rfl
@[simp] theorem State.setFlag_dt (s : State) (c : Bool) : (s.setFlag c).dt = s.dt := rfl
@[simp] theorem State.setFlag_st (s : State) (c : Bool) : (s.setFlag c).st = s.st := rfl
@[simp] theorem State.setFlag_mem (s : State) (c : Bool) : (s.setFlag c).mem = s.mem := rfl
@[simp] theorem State.setFlag_keys (s : State) (c : Bool) : (s.setFlag c).keys = s.keys := rfl
@[simp] theorem State.setFlag_fb (s : State) (c : Bool) : (s.setFlag c).fb = s.fb := rfl
@[simp] theorem State.setFlag_programSize (s : State) (c : Bool) : (s.setFlag c).programSize = s.programSize := rfl
@[simp] theorem State.setFlag_runState (s : State) (c : Bool) : (s.setFlag c).runState = s.runState := rfl
@[simp] theorem State.setFlag_frameStep (s : State) (c : Bool) : (s.setFlag c).frameStep = s.frameStep := rfl
@[simp] theorem State.setFlag_rom (s : State) (c : Bool) : (s.setFlag c).rom = s.rom := rfl
@[simp] theorem State.setFlag_draws (s : State) (c : Bool) : (s.setFlag c).draws = s.draws := rfl
@[simp] theorem State.setFlag_key (s : State) (c : Bool) (k : Reg) : (s.setFlag c).key k = s.key k := rfl
@[simp] theorem State.setFlag_memRead (s : State) (c : Bool) (adr : Nat) : (s.setFlag c).memRead adr = s.memRead adr := rfl

/-! ### advance -/

@[simp] theorem State.advance_cfg (s : State) : s.advance.cfg = s.cfg := rfl
@[simp] theorem State.advance_regs (s : State) : s.advance.regs = s.regs := rfl
@[simp] theorem State.advance_pc (s : State) : s.advance.pc = s.pc + 2 := rfl
@[simp] theorem State.advance_index (s : State) : s.advance.index = s.index := rfl
@[simp] theorem State.advance_stack (s : State) : s.advance.stack = s.stack := rfl
@[simp] theorem State.advance_sp (s : State) : s.advance.sp = s.sp := rfl
@[simp] theorem State.advance_dt (s : State) : s.advance.dt = s.dt := rfl
@[simp] theorem State.advance_st (s : State) : s.advance.st = s.st := rfl
@[simp] theorem State.advance_mem (s : State) : s.advance.mem = s.mem := rfl
@[simp] theorem State.advance_keys (s : State) : s.advance.keys = s.keys := rfl
@[simp] theorem State.advance_fb (s : State) : s.advance.fb = s.fb := rfl
@[simp] theorem State.advance_programSize (s : State) : s.advance.programSize = s.programSize := rfl
@[simp] theorem State.advance_runState (s : State) : s.advance.runState = s.runState := rfl
@[simp] theorem State.advance_frameStep (s : State) : s.advance.frameStep = s.frameStep := rfl
@[simp] theorem State.advance_rom (s : State) : s.advance.rom = s.rom := rfl
@[simp] theorem State.advance_draws (s : State) : s.advance.draws = s.draws := rfl
@[simp] theorem State.advance_reg (s : State) (r : Reg) : s.advance.reg r = s.reg r := rfl
@[simp] theorem State.advance_key (s : State) (k : Reg) : s.advance.key k = s.key k := rfl
@[simp] theorem State.advance_memRead (s : State) (adr : Nat) : s.advance.memRead adr = s.memRead adr := rfl

/-! ### skipFault -/

@[simp] theorem State.skipFault_cfg (s : State) : s.skipFault.cfg = s.cfg := rfl
@[simp] theorem State.skipFault_regs (s : State) : s.skipFault.regs = s.regs := rfl
@[simp] theorem State.skipFault_pc (s : State) : s.skipFault.pc = s.pc + 2 := rfl
@[simp] theorem State.skipFault_index (s : State) : s.skipFault.index = s.index := rfl
@[simp] theorem State.skipFault_stack (s : State) : s.skipFault.stack = s.stack := rfl
@[simp] theorem State.skipFault_sp (s : State) : s.skipFault.sp = s.sp := rfl
@[simp] theorem State.skipFault_dt (s : State) : s.skipFault.dt = s.dt := rfl
@[simp] theorem State.skipFault_st (s : State) : s.skipFault.st = s.st := rfl
@[simp] theorem State.skipFault_mem (s : State) : s.skipFault.mem = s.mem := rfl
@[simp] theorem State.skipFault_keys (s : State) : s.skipFault.keys = s.keys := rfl
@[simp] theorem State.skipFault_fb (s : State) : s.skipFault.fb = s.fb := rfl
@[simp] theorem State.skipFault_programSize (s : State) : s.skipFault.programSize = s.programSize := rfl
@[simp] theorem State.skipFault_runState (s : State) : s.skipFault.runState = s.runState := rfl
@[simp] theorem State.skipFault_frameStep (s : State) : s.skipFault.frameStep = s.frameStep := rfl
@[simp] theorem State.skipFault_rom (s : State) : s.skipFault.rom = s.rom := rfl
@[simp] theorem State.skipFault_draws (s : State) : s.skipFault.draws = s.draws := rfl
@[simp] theorem State.skipFault_reg (s : State) (r : Reg) : s.skipFault.reg r = s.reg r := rfl
@[simp] theorem State.skipFault_key (s : State) (k : Reg) : s.skipFault.key k = s.key k := rfl
@[simp] theorem State.skipFault_memRead (s : State) (adr : Nat) : s.skipFault.memRead adr = s.memRead adr := rfl

/-! ### memWriteBytes -/

@[simp] theorem State.memWriteBytes_cfg (s : State) (base : Nat) (bytes : List Byte) : (s.memWriteBytes base bytes).cfg = s.cfg := rfl
@[simp] theorem State.memWriteBytes_regs (s : State) (base : Nat) (bytes : List Byte) : (s.memWriteBytes base bytes).regs = s.regs := rfl
@[simp] theorem State.memWriteBytes_pc (s : State) (base : Nat) (bytes : List Byte) : (s.memWriteBytes base bytes).pc = s.pc := rfl
@[simp] theorem State.memWriteBytes_index (s : State) (base : Nat) (bytes : List Byte) : (s.memWriteBytes base bytes).index = s.index := rfl
@[simp] theorem State.memWriteBytes_stack (s : State) (base : Nat) (bytes : List Byte) : (s.memWriteBytes base bytes).stack = s.stack := rfl
@[simp] theorem State.memWriteBytes_sp (s : State) (base : Nat) (bytes : List Byte) : (s.memWriteBytes base bytes).sp = s.sp := rfl
@[simp] theorem State.memWriteBytes_dt (s : State) (base : Nat) (bytes : List Byte) : (s.memWriteBytes base bytes).dt = s.dt := rfl
@[simp] theorem State.memWriteBytes_st (s : State) (base : Nat) (bytes : List Byte) : (s.memWriteBytes base bytes).st = s.st := rfl
@[simp] theorem State.memWriteBytes_mem (s : State) (base : Nat) (bytes : List Byte) : (s.memWriteBytes base bytes).mem = Memory.writeBytes s.cfg.font s.mem base bytes := rfl
@[simp] theorem State.memWriteBytes_keys (s : State) (base : Nat) (bytes : List Byte) : (s.memWriteBytes base bytes).keys = s.keys := rfl
@[simp] theorem State.memWriteBytes_fb (s : State) (base : Nat) (bytes : List Byte) : (s.memWriteBytes base bytes).fb = s.fb := rfl
@[simp] theorem State.memWriteBytes_programSize (s : State) (base : Nat) (bytes : List Byte) : (s.memWriteBytes base bytes).programSize = s.programSize := rfl
@[simp] theorem State.memWriteBytes_runState (s : State) (base : Nat) (bytes : List Byte) : (s.memWriteBytes base bytes).runState = s.runState := rfl
@[simp] theorem State.memWriteBytes_frameStep (s : State) (base : Nat) (bytes : List Byte) : (s.memWriteBytes base bytes).frameStep = s.frameStep := rfl
@[simp] theorem State.memWriteBytes_rom (s : State) (base : Nat) (bytes : List Byte) : (s.memWriteBytes base bytes).rom = s.rom := rfl
@[simp] theorem State.memWriteBytes_draws (s : State) (base : Nat) (bytes : List Byte) : (s.memWriteBytes base bytes).draws = s.draws := rfl
@[simp] theorem State.memWriteBytes_reg (s : State) (base : Nat) (bytes : List Byte) (r : Reg) : (s.memWriteBytes base bytes).reg r = s.reg r := rfl
@[simp] theorem State.memWriteBytes_key (s : State) (base : Nat) (bytes : List Byte) (k : Reg) : (s.memWriteBytes base bytes).key k = s.key k := rfl

/-! ### loadRegsUpTo -/

@[simp] theorem State.loadRegsUpTo_cfg (s : State) (x : Reg) : (s.loadRegsUpTo x).cfg = s.cfg := rfl
@[simp] theorem State.loadRegsUpTo_pc (s : State) (x : Reg) : (s.loadRegsUpTo x).pc = s.pc := rfl
@[simp] theorem State.loadRegsUpTo_index (s : State) (x : Reg) : (s.loadRegsUpTo x).index = s.index := rfl
@[simp] theorem State.loadRegsUpTo_stack (s : State) (x : Reg) : (s.loadRegsUpTo x).stack = s.stack := rfl
@[simp] theorem State.loadRegsUpTo_sp (s : State) (x : Reg) : (s.loadRegsUpTo x).sp = s.sp := rfl
@[simp] theorem State.loadRegsUpTo_dt (s : State) (x : Reg) : (s.loadRegsUpTo x).dt = s.dt := rfl
@[simp] theorem State.loadRegsUpTo_st (s : State) (x : Reg) : (s.loadRegsUpTo x).st = s.st := rfl
@[simp] theorem State.loadRegsUpTo_mem (s : State) (x : Reg) : (s.loadRegsUpTo x).mem = s.mem := rfl
@[simp] theorem State.loadRegsUpTo_keys (s : State) (x : Reg) : (s.loadRegsUpTo x).keys = s.keys := rfl
@[simp] theorem State.loadRegsUpTo_fb (s : State) (x : Reg) : (s.loadRegsUpTo x).fb = s.fb := rfl
@[simp] theorem State.loadRegsUpTo_programSize (s : State) (x : Reg) : (s.loadRegsUpTo x).programSize = s.programSize := rfl
@[simp] theorem State.loadRegsUpTo_runState (s : State) (x : Reg) : (s.loadRegsUpTo x).runState = s.runState := rfl
@[simp] theorem State.loadRegsUpTo_frameStep (s : State) (x : Reg) : (s.loadRegsUpTo x).frameStep = s.frameStep := rfl
@[simp] theorem State.loadRegsUpTo_rom (s : State) (x : Reg) : (s.loadRegsUpTo x).rom = s.rom := rfl
@[simp] theorem State.loadRegsUpTo_draws (s : State) (x : Reg) : (s.loadRegsUpTo x).draws = s.draws := rfl
@[simp] theorem State.loadRegsUpTo_key (s : State) (x : Reg) (k : Reg) : (s.loadRegsUpTo x).key k = s.key k := rfl
@[simp] theorem State.loadRegsUpTo_memRead (s : State) (x : Reg) (adr : Nat) : (s.loadRegsUpTo x).memRead adr = s.memRead adr := rfl

/-! ### frameTick -/

@[simp] theorem State.frameTick_cfg (s : State) : s.frameTick.cfg = s.cfg := rfl
@[simp] theorem State.frameTick_regs (s : State) : s.frameTick.regs = s.regs := rfl
@[simp] theorem State.frameTick_pc (s : State) : s.frameTick.pc = s.pc := rfl
@[simp] theorem State.frameTick_index (s : State) : s.frameTick.index = s.index := rfl
@[simp] theorem State.frameTick_stack (s : State) : s.frameTick.stack = s.stack := rfl
@[simp] theorem State.frameTick_sp (s : State) : s.frameTick.sp = s.sp := rfl
@[simp] theorem State.frameTick_dt (s : State) : s.frameTick.dt = countDown s.dt := rfl
@[simp] theorem State.frameTick_st (s : State) : s.frameTick.st = countDown s.st := rfl
@[simp] theorem State.frameTick_mem (s : State) : s.frameTick.mem = s.mem := rfl
@[simp] theorem State.frameTick_keys (s : State) : s.frameTick.keys = s.keys := rfl
@[simp] theorem State.frameTick_fb (s : State) : s.frameTick.fb = s.fb := rfl
@[simp] theorem State.frameTick_programSize (s : State) : s.frameTick.programSize = s.programSize := rfl
@[simp] theorem State.frameTick_runState (s : State) : s.frameTick.runState = s.runState := rfl
@[simp] theorem State.frameTick_frameStep (s : State) : s.frameTick.frameStep = s.frameStep := rfl
@[simp] theorem State.frameTick_rom (s : State) : s.frameTick.rom = s.rom := rfl
@[simp] theorem State.frameTick_draws (s : State) : s.frameTick.draws = s.draws := rfl
@[simp] theorem State.frameTick_reg (s : State) (r : Reg) : s.frameTick.reg r = s.reg r := rfl
@[simp] theorem State.frameTick_key (s : State) (k : Reg) : s.frameTick.key k = s.key k := rfl
@[simp] theorem State.frameTick_memRead (s : State) (adr : Nat) : s.frameTick.memRead adr = s.memRead adr := rfl

/-! ### keysClear -/

@[simp] theorem State.keysClear_cfg (s : State) : s.keysClear.cfg = s.cfg := rfl
@[simp] theorem State.keysClear_regs (s : State) : s.keysClear.regs = s.regs := rfl
@[simp] theorem State.keysClear_pc (s : State) : s.keysClear.pc = s.pc := rfl
@[simp] theorem State.keysClear_index (s : State) : s.keysClear.index = s.index := rfl
@[simp] theorem State.keysClear_stack (s : State) : s.keysClear.stack = s.stack := rfl
@[simp] theorem State.keysClear_sp (s : State) : s.keysClear.sp = s.sp := rfl
@[simp] theorem State.keysClear_dt (s : State) : s.keysClear.dt = s.dt := rfl
@[simp] theorem State.keysClear_st (s : State) : s.keysClear.st = s.st := rfl
@[simp] theorem State.keysClear_mem (s : State) : s.keysClear.mem = s.mem := rfl
@[simp] theorem State.keysClear_keys (s : State) : s.keysClear.keys = Vector.replicate 16 false := rfl
@[simp] theorem State.keysClear_fb (s : State) : s.keysClear.fb = s.fb := rfl
@[simp] theorem State.keysClear_programSize (s : State) : s.keysClear.programSize = s.programSize := rfl
@[simp] theorem State.keysClear_runState (s : State) : s.keysClear.runState = s.runState := rfl
@[simp] theorem State.keysClear_frameStep (s : State) : s.keysClear.frameStep = s.frameStep := rfl
@[simp] theorem State.keysClear_rom (s : State) : s.keysClear.rom = s.rom := rfl
@[simp] theorem State.keysClear_draws (s : State) : s.keysClear.draws = s.draws := rfl
@[simp] theorem State.keysClear_reg (s : State) (r : Reg) : s.keysClear.reg r = s.reg r := rfl
@[simp] theorem State.keysClear_memRead (s : State) (adr : Nat) : s.keysClear.memRead adr = s.memRead adr := rfl

end Sys2Proof.Machine
end

