-- ==== Sys2Proof/Laws/Framebuffer.lean ====
section
/-! SUPPORT. The framebuffer: what a toggle and a whole sprite do to every cell, the collision flag, that the canonical
form is kept, and that no cell is visited twice in one DRW (R141, R142, log 10). -/

namespace Sys2Proof.Machine

theorem lit_iff_mem (f : Frame) (i : Nat) : Frame.lit f i = true ↔ i ∈ f := by
  simp [Frame.lit]

theorem mem_frame_insert (i j : Nat) (f : Frame) : j ∈ Frame.insert i f ↔ j = i ∨ j ∈ f := by
  induction f with
  | nil => simp [Frame.insert]
  | cons k rest ih =>
    unfold Frame.insert
    split
    · simp
    · simp only [List.mem_cons, ih]
      tauto

theorem mem_toggle (f : Frame) (i j : Nat) :
    j ∈ Frame.toggle f i ↔ if j = i then i ∉ f else j ∈ f := by
  unfold Frame.toggle
  by_cases hi : i ∈ f
  · have hl : Frame.lit f i = true := (lit_iff_mem f i).mpr hi
    by_cases hj : j = i <;> simp [hl, hi, hj]
  · have hl : ¬Frame.lit f i = true := fun h => hi ((lit_iff_mem f i).mp h)
    rw [if_neg hl, mem_frame_insert]
    by_cases hj : j = i <;> simp [hi, hj]

/-- A toggle inverts its own cell and leaves every other alone. -/
theorem lit_toggle (f : Frame) (i j : Nat) :
    Frame.lit (Frame.toggle f i) j = if j = i then !Frame.lit f i else Frame.lit f j := by
  rw [Bool.eq_iff_iff, lit_iff_mem, mem_toggle]
  split
  · rw [Bool.not_eq_true', ← Bool.not_eq_true, lit_iff_mem]
  · rw [lit_iff_mem]

theorem frame_insert_rising (i : Nat) (f : Frame) (hf : f.Pairwise (fun a b => a < b)) (hi : i ∉ f) :
    (Frame.insert i f).Pairwise (fun a b => a < b) := by
  induction f with
  | nil => simp [Frame.insert]
  | cons k rest ih =>
    have ⟨hk, hrest⟩ := List.pairwise_cons.mp hf
    unfold Frame.insert
    split
    · next hlt =>
      refine List.pairwise_cons.mpr ⟨fun e he => ?_, hf⟩
      rcases List.mem_cons.mp he with rfl | he
      · exact hlt
      · exact Nat.lt_trans hlt (hk e he)
    · next hlt =>
      refine List.pairwise_cons.mpr ⟨fun e he => ?_, ih hrest (fun h => hi (by simp [h]))⟩
      rcases (mem_frame_insert i e rest).mp he with rfl | he
      · have : e ≠ k := fun h => hi (by simp [h])
        omega
      · exact hk e he

/-- A toggle inside the frame keeps the canonical form. -/
theorem toggle_wf (cfg : Config) (f : Frame) (i : Nat) (hf : Frame.wf cfg f)
    (hi : i < frameWidth cfg * frameHeight cfg) : Frame.wf cfg (Frame.toggle f i) := by
  refine ⟨?_, fun j hj => ?_⟩
  · unfold Frame.toggle
    split
    · exact hf.1.filter _
    · next h => exact frame_insert_rising i f hf.1 (fun hm => h ((lit_iff_mem f i).mpr hm))
  · rw [mem_toggle] at hj
    split at hj
    · next h => exact h ▸ hi
    · exact hf.2 j hj

theorem foldl_plot_lit (cells : List Nat) (hn : cells.Nodup) (j : Nat) :
    ∀ acc : Frame × Bool,
      Frame.lit (cells.foldl Frame.plot acc).1 j = (Frame.lit acc.1 j ^^ decide (j ∈ cells)) := by
  induction cells with
  | nil => intro acc; simp
  | cons c rest ih =>
    intro acc
    have ⟨hc, hrest⟩ := List.nodup_cons.mp hn
    rw [List.foldl_cons, ih hrest]
    simp only [Frame.plot, lit_toggle, List.mem_cons]
    by_cases hj : j = c
    · subst hj; simp [hc]
    · simp [hj]

theorem foldl_plot_hit (cells : List Nat) (hn : cells.Nodup) :
    ∀ acc : Frame × Bool, (cells.foldl Frame.plot acc).2 = (acc.2 || cells.any (Frame.lit acc.1)) := by
  induction cells with
  | nil => intro acc; simp
  | cons c rest ih =>
    intro acc
    have ⟨hc, hrest⟩ := List.nodup_cons.mp hn
    have hany : rest.any (Frame.lit (Frame.toggle acc.1 c)) = rest.any (Frame.lit acc.1) := by
      rw [Bool.eq_iff_iff, List.any_eq_true, List.any_eq_true]
      refine exists_congr fun j => and_congr_right fun hj => ?_
      have : j ≠ c := fun h => hc (h ▸ hj)
      rw [lit_toggle, if_neg this]
    rw [List.foldl_cons, ih hrest]
    simp only [Frame.plot, List.any_cons, Bool.or_assoc]
    rw [hany]

/-- A sprite whose cells are all different inverts exactly those cells. -/
theorem lit_plotAll (f : Frame) (cells : List Nat) (hn : cells.Nodup) (j : Nat) :
    Frame.lit (Frame.plotAll f cells).1 j = (Frame.lit f j ^^ decide (j ∈ cells)) :=
  foldl_plot_lit cells hn j (f, false)

/-- Its collision flag tells whether one of them was 1. -/
theorem hit_plotAll (f : Frame) (cells : List Nat) (hn : cells.Nodup) :
    (Frame.plotAll f cells).2 = cells.any (Frame.lit f) := by
  rw [Frame.plotAll, foldl_plot_hit cells hn (f, false), Bool.false_or]

/-- A sprite inside the frame keeps the canonical form. -/
theorem plotAll_wf (cfg : Config) (f : Frame) (cells : List Nat) (hf : Frame.wf cfg f)
    (hc : ∀ i ∈ cells, i < frameWidth cfg * frameHeight cfg) : Frame.wf cfg (Frame.plotAll f cells).1 := by
  suffices h : ∀ acc : Frame × Bool, Frame.wf cfg acc.1 → Frame.wf cfg (cells.foldl Frame.plot acc).1 from h _ hf
  induction cells with
  | nil => intro acc h; exact h
  | cons c rest ih =>
    intro acc h
    exact ih (fun i hi => hc i (by simp [hi])) _ (toggle_wf cfg acc.1 c h (hc c (by simp)))

/-! ### Cells and coordinates -/

theorem frame_size_pos (cfg : Config) : 64 ≤ frameWidth cfg ∧ 32 ≤ frameHeight cfg := by
  unfold frameWidth frameHeight
  cases cfg.geometry <;> decide

/-- Cells in the frame with equal positions are equal. -/
theorem cellIndex_inj (cfg : Config) {px py qx qy : Nat} (hp : px < frameWidth cfg) (hq : qx < frameWidth cfg)
    (h : cellIndex cfg px py = cellIndex cfg qx qy) : px = qx ∧ py = qy := by
  unfold cellIndex at h
  have hx : px = qx := by
    have := congrArg (· % frameWidth cfg) h
    simpa [Nat.add_mod, Nat.mod_eq_of_lt hp, Nat.mod_eq_of_lt hq] using this
  subst hx
  refine ⟨rfl, ?_⟩
  have hw := (frame_size_pos cfg).1
  exact Nat.eq_of_mul_eq_mul_right (by omega) (Nat.add_right_cancel h)

theorem cellIndex_lt (cfg : Config) {px py : Nat} (hx : px < frameWidth cfg) (hy : py < frameHeight cfg) :
    cellIndex cfg px py < frameWidth cfg * frameHeight cfg := by
  unfold cellIndex
  calc py * frameWidth cfg + px < py * frameWidth cfg + frameWidth cfg := by omega
    _ = (py + 1) * frameWidth cfg := by ring
    _ ≤ frameHeight cfg * frameWidth cfg := Nat.mul_le_mul_right _ hy
    _ = _ := Nat.mul_comm _ _

/-- Where a pixel falls, if anywhere: the two coordinates inside the frame (R141). -/
theorem pixelCell_eq_some (cfg : Config) (px py i : Nat) :
    pixelCell cfg px py = some i ↔ ∃ qx qy, i = cellIndex cfg qx qy ∧ qx < frameWidth cfg ∧ qy < frameHeight cfg ∧
      if cfg.quirks.wrapSprites then qx = px % frameWidth cfg ∧ qy = py % frameHeight cfg else qx = px ∧ qy = py := by
  have hpos := frame_size_pos cfg
  unfold pixelCell
  by_cases hw : cfg.quirks.wrapSprites = true
  · simp only [hw, if_true, Option.some.injEq]
    constructor
    · rintro rfl
      exact ⟨_, _, rfl, Nat.mod_lt _ (by omega), Nat.mod_lt _ (by omega), rfl, rfl⟩
    · rintro ⟨qx, qy, rfl, -, -, rfl, rfl⟩; rfl
  · simp only [if_neg hw]
    constructor
    · intro h
      split at h
      · next hin => exact ⟨px, py, (Option.some.inj h).symm, hin.1, hin.2, rfl, rfl⟩
      · cases h
    · rintro ⟨qx, qy, rfl, hx, hy, rfl, rfl⟩
      rw [if_pos ⟨hx, hy⟩]

theorem mem_spriteRow (cfg : Config) (ox py : Nat) (b : Byte) (i : Nat) :
    i ∈ spriteRow cfg ox py b ↔ ∃ c < 8, b.getLsbD (7 - c) = true ∧ pixelCell cfg (ox + c) py = some i := by
  unfold spriteRow
  simp only [List.mem_filterMap, List.mem_range]
  refine exists_congr fun c => and_congr_right fun _ => ?_
  cases b.getLsbD (7 - c) <;> simp

theorem mem_spriteCells (cfg : Config) (ox : Nat) (bytes : List Byte) (i : Nat) :
    ∀ py, i ∈ spriteCells cfg ox py bytes ↔
      ∃ r, ∃ h : r < bytes.length, ∃ c < 8, bytes[r].getLsbD (7 - c) = true ∧
        pixelCell cfg (ox + c) (py + r) = some i := by
  induction bytes with
  | nil => intro py; simp [spriteCells]
  | cons b rest ih =>
    intro py
    rw [spriteCells, List.mem_append, mem_spriteRow, ih]
    constructor
    · rintro (⟨c, hc, hb, hp⟩ | ⟨r, hr, c, hc, hb, hp⟩)
      · exact ⟨0, by simp, c, hc, by simpa using hb, by simpa using hp⟩
      · exact ⟨r + 1, by simpa using hr, c, hc, by simpa using hb, by rw [← hp]; congr 1; omega⟩
    · rintro ⟨r, hr, c, hc, hb, hp⟩
      cases r with
      | zero => exact .inl ⟨c, hc, by simpa using hb, by simpa using hp⟩
      | succ r =>
        exact .inr ⟨r, by simpa using hr, c, hc, by simpa using hb, by rw [← hp]; congr 1; omega⟩

/-- Two sprite pixels with one cell are one pixel, for the origin is in the frame and a sprite is at most 8 by 15. -/
theorem pixelCell_inj (cfg : Config) {ox oy c d r q i : Nat} (hc : c < 8) (hd : d < 8) (hr : r < 32) (hq : q < 32)
    (h1 : pixelCell cfg (ox + c) (oy + r) = some i) (h2 : pixelCell cfg (ox + d) (oy + q) = some i) :
    c = d ∧ r = q := by
  have hpos := frame_size_pos cfg
  obtain ⟨ax, ay, rfl, hax, -, ha⟩ := (pixelCell_eq_some ..).mp h1
  obtain ⟨bx, bY, he, hbx, -, hb⟩ := (pixelCell_eq_some ..).mp h2
  obtain ⟨rfl, rfl⟩ := cellIndex_inj cfg hax hbx he
  split at ha
  · next hw =>
    rw [if_pos hw] at hb
    have hx : (ox + c) % frameWidth cfg = (ox + d) % frameWidth cfg := ha.1.symm.trans hb.1
    have hy : (oy + r) % frameHeight cfg = (oy + q) % frameHeight cfg := ha.2.symm.trans hb.2
    have hx' : c % frameWidth cfg = d % frameWidth cfg := Nat.ModEq.add_left_cancel' ox hx
    have hy' : r % frameHeight cfg = q % frameHeight cfg := Nat.ModEq.add_left_cancel' oy hy
    rw [Nat.mod_eq_of_lt (by omega), Nat.mod_eq_of_lt (by omega)] at hx' hy'
    exact ⟨hx', hy'⟩
  · next hw =>
    rw [if_neg hw] at hb
    omega

theorem spriteRow_nodup (cfg : Config) (ox oy r : Nat) (b : Byte) (hr : r < 32) :
    (spriteRow cfg ox (oy + r) b).Nodup := by
  refine List.pairwise_filterMap.mpr (List.pairwise_lt_range.imp_of_mem ?_)
  intro c d hc hd hlt i hi j hj hij
  subst hij
  rw [List.mem_range] at hc hd
  have hic : pixelCell cfg (ox + c) (oy + r) = some i := by
    split at hi
    · exact hi
    · cases hi
  have hid : pixelCell cfg (ox + d) (oy + r) = some i := by
    split at hj
    · exact hj
    · cases hj
  have := (pixelCell_inj cfg hc hd hr hr hic hid).1
  omega

/-- "No cell is visited twice in one DRW" (R141). -/
theorem spriteCells_nodup (cfg : Config) (ox oy : Nat) (bytes : List Byte) :
    ∀ r, r + bytes.length ≤ 32 → (spriteCells cfg ox (oy + r) bytes).Nodup := by
  induction bytes with
  | nil => intro _ _; exact List.nodup_nil
  | cons b rest ih =>
    intro r h
    simp only [List.length_cons] at h
    refine List.nodup_append.mpr ⟨spriteRow_nodup cfg ox oy r b (by omega), ?_, ?_⟩
    · exact Nat.add_assoc oy r 1 ▸ ih (r + 1) (by omega)
    · rintro i hi j hj rfl
      obtain ⟨c, hc, -, hp⟩ := (mem_spriteRow ..).mp hi
      obtain ⟨q, hq, d, hd, -, hp'⟩ := (mem_spriteCells ..).mp hj
      rw [show oy + r + 1 + q = oy + (r + 1 + q) by omega] at hp'
      have := (pixelCell_inj cfg hc hd (by omega) (by omega) hp hp').2
      omega

theorem spriteCells_in_frame (cfg : Config) (ox oy : Nat) (bytes : List Byte) (i : Nat)
    (h : i ∈ spriteCells cfg ox oy bytes) : i < frameWidth cfg * frameHeight cfg := by
  obtain ⟨r, hr, c, hc, -, hp⟩ := (mem_spriteCells ..).mp h
  obtain ⟨qx, qy, rfl, hx, hy, -⟩ := (pixelCell_eq_some ..).mp hp
  exact cellIndex_lt cfg hx hy

theorem drawnCells_nodup (x y : Reg) (n : Fin 16) (s : State) : (drawnCells x y n s).Nodup := by
  have := n.isLt
  exact spriteCells_nodup s.cfg (originX x s) (originY y s) _ 0 (by simp [State.memReadBytes]; omega)

/-- The cells DRW toggles, by the sprite's rows and columns (R141). -/
theorem mem_drawnCells (x y : Reg) (n : Fin 16) (s : State) (i : Nat) :
    i ∈ drawnCells x y n s ↔ ∃ r < n.val, ∃ c < 8, (s.memRead (s.index.toNat + r)).getLsbD (7 - c) = true ∧
      pixelCell s.cfg (originX x s + c) (originY y s + r) = some i := by
  rw [drawnCells, mem_spriteCells]
  constructor
  · rintro ⟨r, hr, h⟩
    exact ⟨r, by simpa [State.memReadBytes] using hr, by simpa [State.memReadBytes] using h⟩
  · rintro ⟨r, hr, h⟩
    exact ⟨r, by simpa [State.memReadBytes] using hr, by simpa [State.memReadBytes] using h⟩

end Sys2Proof.Machine
end

