-- ==== Sys2Proof/Laws/Memory.lean ====
section
/-! SUPPORT. Memory: read after write, and that every operation keeps the canonical form (R48, log 11). -/

namespace Sys2Proof.Machine

theorem lookup_insert_self (c : Host.Cell) (m : Memory) (h : ∀ d ∈ m, d.1 ≠ c.1) :
    (Memory.insert c m).lookup c.1 = some c.2 := by
  induction m with
  | nil => rw [Memory.insert, List.lookup_cons, beq_self_eq_true]
  | cons d rest ih =>
    have hd : (c.1 == d.1) = false := by
      simpa using (h d (by simp)).symm
    unfold Memory.insert
    split
    · rw [List.lookup_cons, beq_self_eq_true]
    · rw [List.lookup_cons, hd]
      exact ih (fun e he => h e (by simp [he]))

theorem lookup_insert_other (c : Host.Cell) (m : Memory) (a : Nat) (h : a ≠ c.1) :
    (Memory.insert c m).lookup a = m.lookup a := by
  have hc : (a == c.1) = false := by simpa using h
  induction m with
  | nil => rw [Memory.insert, List.lookup_cons, hc]
  | cons d rest ih =>
    unfold Memory.insert
    split
    · rw [List.lookup_cons, hc]
    · rw [List.lookup_cons, List.lookup_cons, ih]

theorem lookup_erase_self (m : Memory) (a : Nat) : (Memory.erase m a).lookup a = none := by
  rw [List.lookup_eq_none_iff]
  intro c hc
  have : c.1 ≠ a := by simpa using (List.mem_filter.mp hc).2
  simpa using this.symm

theorem lookup_erase_other (m : Memory) (a b : Nat) (h : b ≠ a) : (Memory.erase m a).lookup b = m.lookup b := by
  induction m with
  | nil => rfl
  | cons d rest ih =>
    unfold Memory.erase at *
    by_cases hd : d.1 = a
    · have hb : (b == d.1) = false := by simpa [hd] using h
      rw [List.filter_cons_of_neg (by simp [hd]), ih, List.lookup_cons, hb]
    · rw [List.filter_cons_of_pos (by simp [hd]), List.lookup_cons, List.lookup_cons, ih]

/-- "every location returns the last byte written to it" (R48). -/
@[simp] theorem Memory.read_write_self (font : Font) (m : Memory) (a : Nat) (v : Byte) :
    Memory.read font (Memory.write font m a v) a = v := by
  unfold Memory.write
  split
  · next h => simp [Memory.read, lookup_erase_self, h]
  · have := lookup_insert_self (a, v) (Memory.erase m a) (fun d hd => by
      simpa using (List.mem_filter.mp hd).2)
    simp only at this
    simp [Memory.read, this]

/-- A write leaves every other address alone (R48). -/
theorem Memory.read_write_other (font : Font) (m : Memory) (a b : Nat) (v : Byte) (h : b ≠ a) :
    Memory.read font (Memory.write font m a v) b = Memory.read font m b := by
  unfold Memory.write Memory.read
  split
  · rw [lookup_erase_other m a b h]
  · rw [lookup_insert_other _ _ _ h, lookup_erase_other m a b h]

/-- Bytes stored at ascending addresses leave every address outside them alone. -/
theorem Memory.read_writeBytes_outside (font : Font) (bytes : List Byte) :
    ∀ (m : Memory) (base a : Nat), ¬(base ≤ a ∧ a < base + bytes.length) →
      Memory.read font (Memory.writeBytes font m base bytes) a = Memory.read font m a := by
  induction bytes with
  | nil => intros; rfl
  | cons b rest ih =>
    intro m base a h
    simp only [List.length_cons] at h
    unfold Memory.writeBytes
    rw [ih _ _ _ (by omega), Memory.read_write_other _ _ _ _ _ (by omega)]

/-- Byte number `i` of those stored is read back at `base + i`. -/
theorem Memory.read_writeBytes_inside (font : Font) (bytes : List Byte) :
    ∀ (m : Memory) (base i : Nat) (h : i < bytes.length),
      Memory.read font (Memory.writeBytes font m base bytes) (base + i) = bytes[i] := by
  induction bytes with
  | nil => intro _ _ _ h; simp at h
  | cons b rest ih =>
    intro m base i h
    unfold Memory.writeBytes
    cases i with
    | zero =>
      rw [Memory.read_writeBytes_outside _ _ _ _ _ (by omega)]
      simp
    | succ k =>
      have := ih (Memory.write font m base b) (base + 1) k (by simpa using h)
      rw [show base + (k + 1) = base + 1 + k by omega, this]
      rfl

theorem mem_insert {c d : Host.Cell} {m : Memory} (h : d ∈ Memory.insert c m) : d = c ∨ d ∈ m := by
  induction m with
  | nil => simpa [Memory.insert] using h
  | cons e rest ih =>
    unfold Memory.insert at h
    split at h
    · simpa using h
    · rcases List.mem_cons.mp h with rfl | h
      · simp
      · rcases ih h with h | h
        · exact .inl h
        · exact .inr (by simp [h])

theorem insert_rising (c : Host.Cell) (m : Memory) (hm : m.Pairwise (fun a b => a.1 < b.1))
    (hne : ∀ d ∈ m, d.1 ≠ c.1) : (Memory.insert c m).Pairwise (fun a b => a.1 < b.1) := by
  induction m with
  | nil => simp [Memory.insert]
  | cons d rest ih =>
    have ⟨hd, hrest⟩ := List.pairwise_cons.mp hm
    unfold Memory.insert
    split
    · next hlt =>
      refine List.pairwise_cons.mpr ⟨fun e he => ?_, hm⟩
      rcases List.mem_cons.mp he with rfl | he
      · exact hlt
      · exact Nat.lt_trans hlt (hd e he)
    · next hlt =>
      refine List.pairwise_cons.mpr ⟨fun e he => ?_, ih hrest (fun e he => hne e (by simp [he]))⟩
      rcases mem_insert he with rfl | he
      · have := hne d (by simp); omega
      · exact hd e he

/-- A store inside memory keeps the canonical form. -/
theorem Memory.write_wf (font : Font) (m : Memory) (a : Nat) (v : Byte) (hm : Memory.wf font m) (ha : a < memSize) :
    Memory.wf font (Memory.write font m a v) := by
  have herase : Memory.wf font (Memory.erase m a) :=
    ⟨hm.1.filter _, fun c hc => hm.2 c (List.mem_filter.mp hc).1⟩
  unfold Memory.write
  split
  · exact herase
  · next hv =>
    refine ⟨insert_rising _ _ herase.1 (fun d hd => by simpa using (List.mem_filter.mp hd).2), fun c hc => ?_⟩
    rcases mem_insert hc with rfl | hc
    · exact ⟨ha, hv⟩
    · exact herase.2 c hc

/-- Stores inside memory keep the canonical form. -/
theorem Memory.writeBytes_wf (font : Font) (bytes : List Byte) :
    ∀ (m : Memory) (base : Nat), Memory.wf font m → base + bytes.length ≤ memSize →
      Memory.wf font (Memory.writeBytes font m base bytes) := by
  induction bytes with
  | nil => intro m _ hm _; exact hm
  | cons b rest ih =>
    intro m base hm h
    simp only [List.length_cons] at h
    exact ih _ _ (Memory.write_wf font m base b hm (by omega)) (by omega)

/-- Memory with nothing listed is canonical: the memory of a constructed machine. -/
theorem Memory.wf_nil (font : Font) : Memory.wf font [] := by simp [Memory.wf]

/-! ### The same, seen from the state -/

@[simp] theorem memRead_memWriteBytes_inside (s : State) (base i : Nat) (bytes : List Byte) (h : i < bytes.length) :
    (s.memWriteBytes base bytes).memRead (base + i) = bytes[i] :=
  Memory.read_writeBytes_inside s.cfg.font bytes s.mem base i h

theorem memRead_memWriteBytes_outside (s : State) (base a : Nat) (bytes : List Byte)
    (h : ¬(base ≤ a ∧ a < base + bytes.length)) : (s.memWriteBytes base bytes).memRead a = s.memRead a :=
  Memory.read_writeBytes_outside s.cfg.font bytes s.mem base a h

@[simp] theorem length_memReadBytes (s : State) (base len : Nat) : (s.memReadBytes base len).length = len := by
  simp [State.memReadBytes]

@[simp] theorem getElem_memReadBytes (s : State) (base len i : Nat) (h : i < (s.memReadBytes base len).length) :
    (s.memReadBytes base len)[i] = s.memRead (base + i) := by
  simp [State.memReadBytes]

@[simp] theorem length_regsUpTo (x : Reg) (s : State) : (regsUpTo x s).length = x.val + 1 := by
  have := x.isLt
  simp [regsUpTo]

@[simp] theorem getElem_regsUpTo (x : Reg) (s : State) (i : Nat) (h : i < (regsUpTo x s).length) :
    (regsUpTo x s)[i] = s.reg ⟨i, by have := x.isLt; simp at h; omega⟩ := by
  simp [regsUpTo, State.reg]

@[simp] theorem length_bcdDigits (v : Byte) : (bcdDigits v).length = 3 := rfl

end Sys2Proof.Machine
end

