-- ==== Sys2Proof/Laws/Operands.lean ====
section
/-! SUPPORT. The shared operations of the meanings, one lemma for each that says all it can do: the bounds check, the
key number, the lowest key down, the fetch (R47, R151 to R153). -/

namespace Sys2Proof.Machine

/-- The bounds check passes exactly when every byte of the range lies inside memory (R47). -/
theorem rangeFault_eq_none_iff (len : Nat) (s : State) :
    rangeFault len s = none ↔ len = 0 ∨ s.index.toNat + len ≤ 4096 := by
  unfold rangeFault memSize
  split
  · simp; omega
  · simp; omega

theorem withRange_inside {len : Nat} {s : State} (body : Result) (h : len = 0 ∨ s.index.toNat + len ≤ 4096) :
    withRange len s body = body := by
  unfold withRange
  rw [(rangeFault_eq_none_iff len s).mpr h]

theorem withRange_outside {len : Nat} {s : State} (body : Result) (h : ¬(len = 0 ∨ s.index.toNat + len ≤ 4096)) :
    withRange len s body = .fault (.invalidAddress (max s.index.toNat 4096)) := by
  have hf : rangeFault len s = some (.invalidAddress (max s.index.toNat 4096)) := by
    unfold rangeFault memSize
    rw [if_pos (by omega)]
  unfold withRange
  rw [hf]
  rfl

/-- If an instruction with a bounds check answers next, its range lies inside memory and its body answered. -/
theorem withRange_next {len : Nat} {s t : State} {body : Result} (h : withRange len s body = .next t) :
    (len = 0 ∨ s.index.toNat + len ≤ 4096) ∧ body = .next t := by
  by_cases hr : len = 0 ∨ s.index.toNat + len ≤ 4096
  · exact ⟨hr, by rwa [withRange_inside body hr] at h⟩
  · rw [withRange_outside body hr] at h; cases h

theorem withKey_inside {x : Reg} {s : State} (body : Bool → Result) (k : Reg) (h : (s.reg x).toNat = k.val) :
    withKey x s body = body (s.key k) := by
  have hk : (s.reg x).toNat < 16 := h ▸ k.isLt
  unfold withKey
  rw [dif_pos hk]
  exact congrArg (fun j => body (s.key j)) (Fin.ext h)

theorem withKey_outside {x : Reg} {s : State} (body : Bool → Result) (h : 15 < (s.reg x).toNat) :
    withKey x s body = .fault (.keyIndexOutOfRange (s.reg x)) := by
  unfold withKey
  rw [dif_neg (by omega)]
  rfl

/-- If a key skip answers next, `V[x]` names a key and the body answered for it. -/
theorem withKey_next {x : Reg} {s t : State} {body : Bool → Result} (h : withKey x s body = .next t) :
    ∃ k : Reg, (s.reg x).toNat = k.val ∧ body (s.key k) = .next t := by
  by_cases hk : (s.reg x).toNat < 16
  · exact ⟨⟨_, hk⟩, rfl, by rwa [withKey_inside body ⟨_, hk⟩ rfl] at h⟩
  · rw [withKey_outside body (by omega)] at h; cases h

/-- The key found is down and every lower one is up (R153). -/
theorem firstKeyDown_eq_some_iff (s : State) (k : Reg) :
    firstKeyDown s = some k ↔ s.key k = true ∧ ∀ j, j < k → s.key j = false := by
  unfold firstKeyDown
  rw [List.find?_eq_some_iff_getElem]
  constructor
  · rintro ⟨hk, i, hi, he, hlow⟩
    refine ⟨hk, fun j hj => ?_⟩
    have hik : i = k.val := by simpa using congrArg Fin.val he
    have := hlow j.val (by rw [hik]; exact hj)
    simpa using this
  · rintro ⟨hk, hlow⟩
    refine ⟨hk, k.val, by simp, by simp, fun j hj => ?_⟩
    simpa using hlow ⟨j, by omega⟩ hj

theorem firstKeyDown_eq_none_iff (s : State) : firstKeyDown s = none ↔ ∀ k, s.key k = false := by
  unfold firstKeyDown
  simp

/-- The fetch fails exactly at the last byte of memory and beyond it (R47). -/
theorem fetch_inside {s : State} (h : s.pc.toNat ≤ 4094) :
    fetch s = .ok (s.memRead s.pc.toNat ++ s.memRead (s.pc.toNat + 1)) := by
  unfold fetch memSize
  rw [if_neg (by omega)]
  rfl

theorem fetch_outside {s : State} (h : 4095 ≤ s.pc.toNat) : fetch s = .error (.invalidAddress s.pc.toNat) := by
  unfold fetch memSize
  rw [if_pos (by omega)]

end Sys2Proof.Machine
end

