-- ==== Sys2Proof/Laws/Registers.lean ====
section
/-! SUPPORT. The register file: read after write, the flag, and the two ways of writing a result (R11, R12, R120). -/

namespace Sys2Proof.Machine

@[simp] theorem reg_setReg_self (s : State) (i : Reg) (v : Byte) : (s.setReg i v).reg i = v := by
  simp [State.reg]

theorem reg_setReg_of_ne (s : State) {i j : Reg} (v : Byte) (h : j ≠ i) : (s.setReg i v).reg j = s.reg j := by
  have : i.val ≠ j.val := fun e => h (Fin.ext e.symm)
  simp [State.reg, this]

theorem reg_setReg (s : State) (i j : Reg) (v : Byte) :
    (s.setReg i v).reg j = if j = i then v else s.reg j := by
  by_cases h : j = i
  · subst h; simp
  · simp [h, reg_setReg_of_ne]

@[simp] theorem reg_setFlag_self (s : State) (c : Bool) : (s.setFlag c).reg VF = flagByte c :=
  reg_setReg_self s VF _

theorem reg_setFlag_of_ne (s : State) {j : Reg} (c : Bool) (h : j ≠ VF) : (s.setFlag c).reg j = s.reg j :=
  reg_setReg_of_ne s _ h

theorem flagByte_toNat (c : Bool) : (flagByte c).toNat = if c then 1 else 0 := by
  cases c <;> rfl

/-- Every item but the registers is as before, whichever of result and flag is written first. -/
theorem setResultAndFlag_eq_setRegs (s : State) (x : Reg) (r : Byte) (c : Bool) :
    ∃ v, s.setResultAndFlag x r c = s.setRegs v := by
  unfold State.setResultAndFlag
  cases s.cfg.flagWriteOrder
  · exact ⟨_, rfl⟩
  · exact ⟨_, rfl⟩

theorem reg_setResultAndFlag_other (s : State) (x j : Reg) (r : Byte) (c : Bool) (hx : j ≠ x) (hf : j ≠ VF) :
    (s.setResultAndFlag x r c).reg j = s.reg j := by
  unfold State.setResultAndFlag
  cases s.cfg.flagWriteOrder
  · simp [reg_setFlag_of_ne, reg_setReg_of_ne, hx, hf]
  · simp [reg_setFlag_of_ne, reg_setReg_of_ne, hx, hf]

/-- Away from `x = 15` both the result and the flag survive, in either order (R120). -/
theorem reg_setResultAndFlag_of_ne (s : State) (x : Reg) (r : Byte) (c : Bool) (hx : x ≠ VF) :
    (s.setResultAndFlag x r c).reg x = r ∧ (s.setResultAndFlag x r c).reg VF = flagByte c := by
  unfold State.setResultAndFlag
  cases s.cfg.flagWriteOrder
  · simp [reg_setFlag_of_ne, hx]
  · simp [reg_setReg_of_ne, Ne.symm hx]

/-- At `x = 15` the one written last survives (R120). -/
theorem reg_setResultAndFlag_VF (s : State) (r : Byte) (c : Bool) :
    (s.setResultAndFlag VF r c).reg VF =
      match s.cfg.flagWriteOrder with
      | .flagLast => flagByte c
      | .resultLast => r := by
  unfold State.setResultAndFlag
  cases s.cfg.flagWriteOrder <;> simp

theorem setLogicResult_eq_setRegs (s : State) (x : Reg) (r : Byte) : ∃ v, s.setLogicResult x r = s.setRegs v := by
  unfold State.setLogicResult
  split
  · exact setResultAndFlag_eq_setRegs s x r false
  · exact ⟨_, rfl⟩

@[simp] theorem reg_loadRegsUpTo (s : State) (x j : Reg) :
    (s.loadRegsUpTo x).reg j = if j ≤ x then s.memRead (s.index.toNat + j.val) else s.reg j := by
  simp [State.reg, State.loadRegsUpTo]

theorem key_keysClear (s : State) (k : Reg) : s.keysClear.key k = false := by
  simp [State.key]

/-- A count-down stops at zero (R190). -/
theorem countDown_toNat (b : Byte) : (countDown b).toNat = b.toNat - 1 := by
  unfold countDown
  split
  · next h => subst h; rfl
  · next h =>
    have : b.toNat ≠ 0 := fun e => h (BitVec.eq_of_toNat_eq (by simpa using e))
    have := b.isLt
    rw [BitVec.toNat_sub]
    simp
    omega

end Sys2Proof.Machine
end

