-- ==== Sys2Proof/Laws/Exec.lean ====
section
/-! SUPPORT. What the shared endings of the meanings leave alone, and what the two instructions that write memory and
the framebuffer do to them, in the terms of Safety.lean. -/

namespace Sys2Proof.Machine

theorem zext12_toNat (a : Addr12) : (zext12 a).toNat = a.toNat := by
  have := a.isLt
  simp [zext12]; omega

theorem zext8_toNat (b : Byte) : (zext8 b).toNat = b.toNat := by
  have := b.isLt
  simp [zext8]; omega

theorem shiftSource_toNat (x y : Reg) (s : State) :
    (shiftSource x y s).toNat =
      if s.cfg.quirks.shiftUsesSecondOperand then (s.reg x).toNat else (s.reg y).toNat := by
  unfold shiftSource
  split <;> rfl

/-! ### Endings that write registers and `pc` alone -/

/-- Whatever is stored in the register file and in `pc`, the rest is as before. -/
theorem onlyRegsAndPc_of_setRegs {s t : State} {rs : List Reg} (hr : RegsUnchangedBut rs s t)
    (h : ∃ v p, t = (s.setRegs v).setPc p) : OnlyRegsAndPc rs s t := by
  obtain ⟨v, p, rfl⟩ := h
  exact ⟨hr, rfl, fun _ => rfl, rfl, ⟨rfl, rfl⟩, ⟨rfl, rfl⟩, ⟨rfl, rfl, rfl, rfl, rfl, rfl⟩, rfl⟩

theorem onlyRegsAndPc_setPc (s : State) (p : Word) : OnlyRegsAndPc [] s (s.setPc p) :=
  onlyRegsAndPc_of_setRegs (fun _ _ => rfl) ⟨s.regs, p, rfl⟩

theorem onlyRegsAndPc_setReg (s : State) (x : Reg) (v : Byte) : OnlyRegsAndPc [x] s (s.setReg x v).advance :=
  onlyRegsAndPc_of_setRegs (fun r hr => by simp at hr; simp [reg_setReg, hr]) ⟨_, _, rfl⟩

theorem setResultAndFlag_advance_pc (s : State) (x : Reg) (r : Byte) (c : Bool) :
    (s.setResultAndFlag x r c).advance.pc = s.pc + 2 := by
  obtain ⟨v, hv⟩ := setResultAndFlag_eq_setRegs s x r c
  rw [hv]; rfl

theorem setLogicResult_advance_pc (s : State) (x : Reg) (r : Byte) :
    (s.setLogicResult x r).advance.pc = s.pc + 2 := by
  obtain ⟨v, hv⟩ := setLogicResult_eq_setRegs s x r
  rw [hv]; rfl

theorem onlyRegsAndPc_setResultAndFlag (s : State) (x : Reg) (r : Byte) (c : Bool) :
    OnlyRegsAndPc [x, VF] s (s.setResultAndFlag x r c).advance := by
  refine onlyRegsAndPc_of_setRegs (fun j hj => ?_) ?_
  · simp only [List.mem_cons, not_or, List.not_mem_nil, not_false_eq_true, and_true] at hj
    simp [reg_setResultAndFlag_other _ _ _ _ _ hj.1 hj.2]
  · obtain ⟨v, hv⟩ := setResultAndFlag_eq_setRegs s x r c
    exact ⟨v, _, by rw [hv]; rfl⟩

/-- The two writes leave the result and the flag that R120 says survive. -/
theorem resultAndFlag_setResultAndFlag (s : State) (x : Reg) (r : Byte) (c : Bool) (n : Nat) (h : r.toNat = n) :
    ResultAndFlag s (s.setResultAndFlag x r c).advance x n c := by
  unfold ResultAndFlag
  split
  · next hx =>
    subst hx
    simp only [State.advance_reg, reg_setResultAndFlag_VF]
    cases s.cfg.flagWriteOrder <;> simp [flagByte_toNat, h]
  · next hx =>
    have := reg_setResultAndFlag_of_ne s x r c hx
    simp [this, flagByte_toNat, h]

theorem logicResult_setLogicResult (s : State) (x : Reg) (r : Byte) (n : Nat) (h : r.toNat = n) :
    LogicResult s (s.setLogicResult x r).advance x n := by
  unfold LogicResult State.setLogicResult
  split
  · exact resultAndFlag_setResultAndFlag _ _ _ _ _ h
  · simp [h]

theorem onlyRegsAndPc_setLogicResult (s : State) (x : Reg) (r : Byte) :
    OnlyRegsAndPc (logicDestinations s x) s (s.setLogicResult x r).advance := by
  unfold State.setLogicResult logicDestinations
  split
  · exact onlyRegsAndPc_setResultAndFlag ..
  · exact onlyRegsAndPc_setReg ..

/-! ### Memory and index -/

@[simp] theorem bumpIndex_mem (s : State) (x : Reg) : (s.bumpIndex x).mem = s.mem := by
  unfold State.bumpIndex
  split <;> rfl

/-- A block transfer moves `I` under the quirk alone (R165, R166). -/
theorem bumpIndex_cases (s : State) (x : Reg) :
    (s.cfg.quirks.loadStoreIncrementIndex = true ∧
      s.bumpIndex x = s.setIndex (s.index + BitVec.ofNat 16 (x.val + 1))) ∨
    (s.cfg.quirks.loadStoreIncrementIndex = false ∧ s.bumpIndex x = s) := by
  unfold State.bumpIndex
  split
  · next hq => exact .inl ⟨hq, rfl⟩
  · next hq => exact .inr ⟨by simpa using hq, rfl⟩

/-- The memory after LD B and LD [I] holds the bytes they name, all inside the address space (R47, R163). -/
theorem execLdB_mem {x : Reg} {s t : State} (h : execLdB x s = .next t) :
    s.index.toNat + (bcdDigits (s.reg x)).length ≤ memSize ∧
      t.mem = Memory.writeBytes s.cfg.font s.mem s.index.toNat (bcdDigits (s.reg x)) := by
  obtain ⟨hr, h⟩ := withRange_next h
  injection h with h
  subst h
  refine ⟨?_, rfl⟩
  rw [length_bcdDigits]; unfold memSize; omega

theorem execStoreRegs_mem {x : Reg} {s t : State} (h : execStoreRegs x s = .next t) :
    s.index.toNat + (regsUpTo x s).length ≤ memSize ∧
      t.mem = Memory.writeBytes s.cfg.font s.mem s.index.toNat (regsUpTo x s) := by
  obtain ⟨hr, h⟩ := withRange_next h
  injection h with h
  subst h
  refine ⟨?_, bumpIndex_mem _ _⟩
  rw [length_regsUpTo]; unfold memSize; omega

/-! ### Sprites -/

/-- DRW toggles the cells that the sprite's set pixels fall on, and no other (R141). -/
theorem mem_drawnCells_iff_spritePixelAt (s : State) (x y : Reg) (n : Fin 16) (px py : Nat) (hin : InFrame s px py) :
    cellIndex s.cfg px py ∈ drawnCells x y n s ↔ SpritePixelAt s x y n px py := by
  rw [mem_drawnCells]
  unfold SpritePixelAt
  refine exists_congr fun r => and_congr_right fun hr => exists_congr fun c => and_congr_right fun hc =>
    and_congr_right fun _ => ?_
  rw [pixelCell_eq_some]
  constructor
  · rintro ⟨qx, qy, he, hx, -, hif⟩
    obtain ⟨rfl, rfl⟩ := cellIndex_inj s.cfg hin.1 hx he
    split at hif
    · next hw => rw [if_pos hw]; exact hif
    · next hw => rw [if_neg hw]; exact hif
  · intro h
    refine ⟨px, py, rfl, hin.1, hin.2, ?_⟩
    split at h
    · next hw => rw [if_pos hw]; exact h
    · next hw => rw [if_neg hw]; exact h

/-- A cell of the frame after DRW. -/
theorem lit_plotAll_drawnCells (s : State) (x y : Reg) (n : Fin 16) (px py : Nat) :
    Frame.lit (Frame.plotAll s.fb (drawnCells x y n s)).1 (cellIndex s.cfg px py) =
      (s.cellAt px py ^^ decide (cellIndex s.cfg px py ∈ drawnCells x y n s)) :=
  lit_plotAll _ _ (drawnCells_nodup x y n s) _

/-- The collision flag of DRW: some set pixel fell on a cell that was 1 (R141). -/
theorem hit_plotAll_drawnCells (s : State) (x y : Reg) (n : Fin 16) :
    (Frame.plotAll s.fb (drawnCells x y n s)).2 = true ↔
      ∃ px py, InFrame s px py ∧ SpritePixelAt s x y n px py ∧ s.cellAt px py = true := by
  rw [hit_plotAll _ _ (drawnCells_nodup x y n s), List.any_eq_true]
  constructor
  · rintro ⟨i, hi, hl⟩
    obtain ⟨r, hr, c, hc, hb, hp⟩ := (mem_drawnCells ..).mp hi
    obtain ⟨qx, qy, rfl, h1, h2, -⟩ := (pixelCell_eq_some ..).mp hp
    exact ⟨qx, qy, ⟨h1, h2⟩, (mem_drawnCells_iff_spritePixelAt s x y n qx qy ⟨h1, h2⟩).mp hi, hl⟩
  · rintro ⟨px, py, h1, h2, h3⟩
    exact ⟨_, (mem_drawnCells_iff_spritePixelAt s x y n px py h1).mpr h2, h3⟩

theorem plotAll_drawnCells_wf (s : State) (x y : Reg) (n : Fin 16) (h : Frame.wf s.cfg s.fb) :
    Frame.wf s.cfg (Frame.plotAll s.fb (drawnCells x y n s)).1 :=
  plotAll_wf s.cfg s.fb _ h (fun i hi => spriteCells_in_frame s.cfg _ _ _ i hi)

/-- A DRW whose bytes lie inside memory draws and writes VF (R141). -/
theorem execDrw_inside {s : State} {n : Fin 16} (x y : Reg) (h : RangeInMemory s n.val) :
    execDrw x y n s = .next ((s.setFb (Frame.plotAll s.fb (drawnCells x y n s)).1).setFlag
      (Frame.plotAll s.fb (drawnCells x y n s)).2).advance :=
  withRange_inside _ h

theorem onlyFrameRegsAndPc_setFb_setFlag (s : State) (f : Frame) (c : Bool) :
    OnlyFrameRegsAndPc [VF] s ((s.setFb f).setFlag c).advance := by
  refine ⟨fun r hr => ?_, rfl, fun _ => rfl, ⟨rfl, rfl⟩, ⟨rfl, rfl⟩, ⟨rfl, rfl, rfl, rfl, rfl, rfl⟩, rfl⟩
  simp only [List.mem_singleton] at hr
  exact (reg_setFlag_of_ne _ _ hr).trans rfl

end Sys2Proof.Machine
end

