-- ==== Sys2Proof/Laws/Step.lean ====
section
/-! SUPPORT. The step: all it can do, said once, and what the Frame Driver's count leaves alone (R60, R186, R190,
R195). -/

namespace Sys2Proof.Machine

/-! ### The count of a Step touches the timers, the keys and `frameStep` alone -/

/-- What the Frame Driver's count of a Step gives: the next count, or the end of the frame. -/
theorem countStep_cases (s : State) :
    (s.frameStep + 1 < s.cfg.tickRate ∧ s.countStep = s.setFrameStep (s.frameStep + 1)) ∨
    (s.cfg.tickRate ≤ s.frameStep + 1 ∧ s.countStep = (s.setFrameStep 0).frameEndTick.frameOpenKeys) := by
  unfold State.countStep
  split
  · exact .inl ⟨‹_›, rfl⟩
  · exact .inr ⟨by omega, rfl⟩

@[simp] theorem frameEndTick_cfg (s : State) : s.frameEndTick.cfg = s.cfg := by
  unfold State.frameEndTick
  split <;> rfl

@[simp] theorem frameOpenKeys_cfg (s : State) : s.frameOpenKeys.cfg = s.cfg := by
  unfold State.frameOpenKeys
  split <;> rfl

@[simp] theorem countStep_cfg (s : State) : s.countStep.cfg = s.cfg := by
  unfold State.countStep
  split <;> simp

@[simp] theorem frameEndTick_regs (s : State) : s.frameEndTick.regs = s.regs := by
  unfold State.frameEndTick
  split <;> rfl

@[simp] theorem frameOpenKeys_regs (s : State) : s.frameOpenKeys.regs = s.regs := by
  unfold State.frameOpenKeys
  split <;> rfl

@[simp] theorem countStep_regs (s : State) : s.countStep.regs = s.regs := by
  unfold State.countStep
  split <;> simp

@[simp] theorem frameEndTick_pc (s : State) : s.frameEndTick.pc = s.pc := by
  unfold State.frameEndTick
  split <;> rfl

@[simp] theorem frameOpenKeys_pc (s : State) : s.frameOpenKeys.pc = s.pc := by
  unfold State.frameOpenKeys
  split <;> rfl

@[simp] theorem countStep_pc (s : State) : s.countStep.pc = s.pc := by
  unfold State.countStep
  split <;> simp

@[simp] theorem frameEndTick_index (s : State) : s.frameEndTick.index = s.index := by
  unfold State.frameEndTick
  split <;> rfl

@[simp] theorem frameOpenKeys_index (s : State) : s.frameOpenKeys.index = s.index := by
  unfold State.frameOpenKeys
  split <;> rfl

@[simp] theorem countStep_index (s : State) : s.countStep.index = s.index := by
  unfold State.countStep
  split <;> simp

@[simp] theorem frameEndTick_stack (s : State) : s.frameEndTick.stack = s.stack := by
  unfold State.frameEndTick
  split <;> rfl

@[simp] theorem frameOpenKeys_stack (s : State) : s.frameOpenKeys.stack = s.stack := by
  unfold State.frameOpenKeys
  split <;> rfl

@[simp] theorem countStep_stack (s : State) : s.countStep.stack = s.stack := by
  unfold State.countStep
  split <;> simp

@[simp] theorem frameEndTick_sp (s : State) : s.frameEndTick.sp = s.sp := by
  unfold State.frameEndTick
  split <;> rfl

@[simp] theorem frameOpenKeys_sp (s : State) : s.frameOpenKeys.sp = s.sp := by
  unfold State.frameOpenKeys
  split <;> rfl

@[simp] theorem countStep_sp (s : State) : s.countStep.sp = s.sp := by
  unfold State.countStep
  split <;> simp

@[simp] theorem frameEndTick_mem (s : State) : s.frameEndTick.mem = s.mem := by
  unfold State.frameEndTick
  split <;> rfl

@[simp] theorem frameOpenKeys_mem (s : State) : s.frameOpenKeys.mem = s.mem := by
  unfold State.frameOpenKeys
  split <;> rfl

@[simp] theorem countStep_mem (s : State) : s.countStep.mem = s.mem := by
  unfold State.countStep
  split <;> simp

@[simp] theorem frameEndTick_fb (s : State) : s.frameEndTick.fb = s.fb := by
  unfold State.frameEndTick
  split <;> rfl

@[simp] theorem frameOpenKeys_fb (s : State) : s.frameOpenKeys.fb = s.fb := by
  unfold State.frameOpenKeys
  split <;> rfl

@[simp] theorem countStep_fb (s : State) : s.countStep.fb = s.fb := by
  unfold State.countStep
  split <;> simp

@[simp] theorem frameEndTick_programSize (s : State) : s.frameEndTick.programSize = s.programSize := by
  unfold State.frameEndTick
  split <;> rfl

@[simp] theorem frameOpenKeys_programSize (s : State) : s.frameOpenKeys.programSize = s.programSize := by
  unfold State.frameOpenKeys
  split <;> rfl

@[simp] theorem countStep_programSize (s : State) : s.countStep.programSize = s.programSize := by
  unfold State.countStep
  split <;> simp

@[simp] theorem frameEndTick_runState (s : State) : s.frameEndTick.runState = s.runState := by
  unfold State.frameEndTick
  split <;> rfl

@[simp] theorem frameOpenKeys_runState (s : State) : s.frameOpenKeys.runState = s.runState := by
  unfold State.frameOpenKeys
  split <;> rfl

@[simp] theorem countStep_runState (s : State) : s.countStep.runState = s.runState := by
  unfold State.countStep
  split <;> simp

@[simp] theorem frameEndTick_rom (s : State) : s.frameEndTick.rom = s.rom := by
  unfold State.frameEndTick
  split <;> rfl

@[simp] theorem frameOpenKeys_rom (s : State) : s.frameOpenKeys.rom = s.rom := by
  unfold State.frameOpenKeys
  split <;> rfl

@[simp] theorem countStep_rom (s : State) : s.countStep.rom = s.rom := by
  unfold State.countStep
  split <;> simp

@[simp] theorem frameEndTick_draws (s : State) : s.frameEndTick.draws = s.draws := by
  unfold State.frameEndTick
  split <;> rfl

@[simp] theorem frameOpenKeys_draws (s : State) : s.frameOpenKeys.draws = s.draws := by
  unfold State.frameOpenKeys
  split <;> rfl

@[simp] theorem countStep_draws (s : State) : s.countStep.draws = s.draws := by
  unfold State.countStep
  split <;> simp

@[simp] theorem frameEndTick_keys (s : State) : s.frameEndTick.keys = s.keys := by
  unfold State.frameEndTick
  split <;> rfl

@[simp] theorem frameEndTick_frameStep (s : State) : s.frameEndTick.frameStep = s.frameStep := by
  unfold State.frameEndTick
  split <;> rfl

@[simp] theorem frameOpenKeys_dt (s : State) : s.frameOpenKeys.dt = s.dt := by
  unfold State.frameOpenKeys
  split <;> rfl

@[simp] theorem frameOpenKeys_st (s : State) : s.frameOpenKeys.st = s.st := by
  unfold State.frameOpenKeys
  split <;> rfl

@[simp] theorem frameOpenKeys_frameStep (s : State) : s.frameOpenKeys.frameStep = s.frameStep := by
  unfold State.frameOpenKeys
  split <;> rfl

@[simp] theorem countStep_reg (s : State) (r : Reg) : s.countStep.reg r = s.reg r := by
  simp [State.reg]

@[simp] theorem countStep_memRead (s : State) (a : Nat) : s.countStep.memRead a = s.memRead a := by
  simp [State.memRead]

/-- The count stays inside the frame (R25). -/
theorem countStep_frameStep_lt (s : State) (h : 1 ≤ s.cfg.tickRate) : s.countStep.frameStep < s.cfg.tickRate := by
  rcases countStep_cases s with ⟨hlt, he⟩ | ⟨-, he⟩
  · rw [he]; exact hlt
  · have : s.countStep.frameStep = 0 := by simp [he]
    omega

/-! ### The step -/

/-- All that a step can do when it answers next: finish the run, complete an instruction, or step over a fault. -/
theorem step_cases {s t : State} (h : step s = .next t) :
    s.runState = .running ∧
      ((pastEnd s = true ∧ t = s.setRunState .finished) ∨
       (pastEnd s = false ∧ ∃ u, coreStep s = .next u ∧ t = u.countStep) ∨
       (pastEnd s = false ∧ s.cfg.faultPolicy = .skip ∧ ∃ f, coreStep s = .fault f ∧ t = s.skipFault.countStep)) := by
  unfold step boundary at h
  split at h
  · next hr =>
    refine ⟨hr, ?_⟩
    by_cases hp : pastEnd s = true
    · rw [if_pos hp] at h
      exact .inl ⟨hp, by injection h with h; exact h.symm⟩
    · have hpf : pastEnd s = false := by simpa using hp
      rw [if_neg hp] at h
      refine .inr ?_
      cases hc : coreStep s with
      | next u =>
        rw [hc] at h
        exact .inl ⟨hpf, u, rfl, by injection h with h; exact h.symm⟩
      | refused why => rw [hc] at h; cases h
      | fault f =>
        rw [hc] at h
        cases hpol : s.cfg.faultPolicy with
        | halt => simp [afterStep, hpol] at h
        | skip =>
          simp only [afterStep, hpol] at h
          exact .inr ⟨hpf, rfl, f, rfl, by injection h with h; exact h.symm⟩
  · cases h
  · cases h
  · cases h

/-- A step at an enabled boundary is the core's Step, then the Frame Driver's answer to it. -/
theorem step_enabled {s : State} (hr : s.runState = .running) (hp : s.pc.toNat < 0x200 + s.programSize.val) :
    step s = afterStep s (coreStep s) := by
  have : pastEnd s = false := decide_eq_false (by unfold programStart; omega)
  unfold step boundary
  rw [hr]
  simp [this]

/-- If the core's Step answers next, an instruction was fetched, decoded and executed. -/
theorem coreStep_cases {s t : State} (h : coreStep s = .next t) :
    ∃ w i, fetch s = .ok w ∧ decode w = .ok i ∧ exec i s = .next t := by
  unfold coreStep at h
  split at h
  · cases h
  · next w hw =>
    unfold runWord at h
    split at h
    · next i hi => exact ⟨w, i, hw, hi, h⟩
    · cases h

end Sys2Proof.Machine
end

