-- ==== Sys2Proof/Laws/HostOps.lean ====
section
/-! SUPPORT. The Frame Driver's count in the terms of Safety.lean, when a host call is due, and what construction and
the load do to the invariant (R26, R190 to R204). -/

namespace Sys2Proof.Machine

/-- All that the Frame Driver's count of a Step does to the count, the timers and the latches. -/
theorem stepCounted_countStep {s t : State} (hc : t.cfg = s.cfg) (hf : t.frameStep = s.frameStep) :
    StepCounted s t t.countStep := by
  rcases countStep_cases t with ⟨hlt, he⟩ | ⟨hge, he⟩
  · rw [hc, hf] at hlt
    refine ⟨fun _ => ?_, fun h => ?_, fun h => ?_, fun h => ?_, fun h => ?_, fun h => ?_⟩
    · rw [he, hf]; exact ⟨rfl, ⟨rfl, rfl⟩, rfl⟩
    all_goals omega
  · rw [hc, hf] at hge
    rw [he]
    refine ⟨fun h => ?_, fun _ => by simp, fun _ hm => ?_, fun _ hm => ?_, fun _ hm k => ?_, fun _ hm => ?_⟩
    · omega
    · rw [← hc] at hm
      simp [State.frameEndTick, hm, countDown_toNat]
    · rw [← hc] at hm
      constructor <;> simp [State.frameEndTick, hm]
    · rw [← hc] at hm
      simp [State.frameOpenKeys, hm, key_keysClear]
    · rw [← hc] at hm
      simp [State.frameOpenKeys, hm]

/-- The Boolean table of the host's arcs is the table of R194. -/
theorem hostArc_iff_hostMayWrite (s : State) (r : RunState) :
    hostArc s.rom.isSome s.runState r = true ↔ HostMayWrite s r := by
  unfold HostMayWrite
  cases s.runState <;> cases r <;> simp [hostArc, Option.isSome_iff_ne_none]

/-- Key calls are due at the start of a frame, and anywhere under KEY_MODEL = free (R192). -/
theorem keyCallDue_iff (s : State) : keyCallDue s = true ↔ s.cfg.keyModel = .free ∨ s.frameStep = 0 := by
  unfold keyCallDue
  cases s.cfg.keyModel <;> simp

/-- The invariant looks at memory, framebuffer, `pc`, stack, count, `programSize` and image only. -/
theorem State.Inv.congr {s t : State} (h : s.Inv) (hc : t.cfg = s.cfg) (hm : t.mem = s.mem) (hb : t.fb = s.fb)
    (hp : t.pc = s.pc) (hs : t.stack = s.stack) (hf : t.frameStep = s.frameStep)
    (hz : t.programSize = s.programSize) (hr : t.rom = s.rom) : t.Inv :=
  ⟨hc ▸ hm ▸ h.mem, hc ▸ hb ▸ h.fb, hp ▸ h.pc, hs ▸ h.stack, hc ▸ hf ▸ h.frame, hz ▸ hr ▸ h.rom⟩

/-- A constructed machine has the invariant (R27). -/
theorem inv_construct (cfg : Config) (h : 1 ≤ cfg.tickRate) : (State.construct cfg).Inv :=
  ⟨Memory.wf_nil _, ⟨List.Pairwise.nil, fun _ hi => nomatch hi⟩, show (0x200 : Word).toNat ≤ 0x10FE by decide,
    fun k => by simp [State.construct], h, fun _ hb => nomatch hb⟩

/-- A load keeps it (R204). -/
theorem inv_loadImage {s : State} (bytes : List Byte) (h : bytes.length < 3585) (hs : s.Inv) :
    (s.loadImage bytes h).Inv :=
  ⟨Memory.writeBytes_wf _ _ _ _ hs.mem (by unfold programStart memSize; omega), hs.fb, hs.pc, hs.stack, hs.frame,
    fun _ hb => by injection hb with hb; subst hb; rfl⟩

end Sys2Proof.Machine
end

