-- ==== Sys2Proof/Laws/PerInstr.lean ====
section
/-! SUPPORT. Statements about every instruction as syntax, made one constructor at a time. -/

namespace Sys2Proof.Laws.EncodedRow

/-- The number of an instruction's row in the opcode map (R66). -/
def rowNumber : Instr → Nat
  | .cls => 1
  | .ret => 2
  | .jp _ => 3
  | .call _ => 4
  | .seImm _ _ => 5
  | .sneImm _ _ => 6
  | .seReg _ _ => 7
  | .ldImm _ _ => 8
  | .addImm _ _ => 9
  | .ldReg _ _ => 10
  | .orReg _ _ => 11
  | .andReg _ _ => 12
  | .xorReg _ _ => 13
  | .addReg _ _ => 14
  | .sub _ _ => 15
  | .shr _ _ => 16
  | .subn _ _ => 17
  | .shl _ _ => 18
  | .sneReg _ _ => 19
  | .ldI _ => 20
  | .jpV0 _ _ => 21
  | .rnd _ _ => 22
  | .drw _ _ _ => 23
  | .skp _ => 24
  | .sknp _ => 25
  | .ldVxDT _ => 26
  | .ldVxK _ => 27
  | .ldDTVx _ => 28
  | .ldSTVx _ => 29
  | .addI _ => 30
  | .ldF _ => 31
  | .ldB _ => 32
  | .storeRegs _ => 33
  | .loadRegs _ => 34

/-- The word an instruction is encoded as selects the instruction's own row of the opcode map. -/
def Statement (i : Instr) : Prop := (dispatch (cut (encode i))).map OpRow.row = some (rowNumber i)

/-- From the fields of a word to its row. -/
theorem row_of_cut {w : Word} {f : Fields} {k : Nat} (hw : cut w = f)
    (hf : (dispatch f).map OpRow.row = some k) : (dispatch (cut w)).map OpRow.row = some k := hw ▸ hf

theorem cls : Statement .cls := rfl

theorem ret : Statement .ret := rfl

theorem jp (nnn : Addr12) : Statement (.jp nnn) :=
  row_of_cut (cut_wordNNN 0x1 nnn) rfl

theorem call (nnn : Addr12) : Statement (.call nnn) :=
  row_of_cut (cut_wordNNN 0x2 nnn) rfl

theorem seImm (x : Reg) (nn : Byte) : Statement (.seImm x nn) :=
  row_of_cut (cut_wordXNN 0x3 x nn) rfl

theorem sneImm (x : Reg) (nn : Byte) : Statement (.sneImm x nn) :=
  row_of_cut (cut_wordXNN 0x4 x nn) rfl

theorem seReg (x y : Reg) : Statement (.seReg x y) :=
  row_of_cut (cut_wordXYN 0x5 x y 0x0) rfl

theorem ldImm (x : Reg) (nn : Byte) : Statement (.ldImm x nn) :=
  row_of_cut (cut_wordXNN 0x6 x nn) rfl

theorem addImm (x : Reg) (nn : Byte) : Statement (.addImm x nn) :=
  row_of_cut (cut_wordXNN 0x7 x nn) rfl

theorem ldReg (x y : Reg) : Statement (.ldReg x y) :=
  row_of_cut (cut_wordXYN 0x8 x y 0x0) rfl

theorem orReg (x y : Reg) : Statement (.orReg x y) :=
  row_of_cut (cut_wordXYN 0x8 x y 0x1) rfl

theorem andReg (x y : Reg) : Statement (.andReg x y) :=
  row_of_cut (cut_wordXYN 0x8 x y 0x2) rfl

theorem xorReg (x y : Reg) : Statement (.xorReg x y) :=
  row_of_cut (cut_wordXYN 0x8 x y 0x3) rfl

theorem addReg (x y : Reg) : Statement (.addReg x y) :=
  row_of_cut (cut_wordXYN 0x8 x y 0x4) rfl

theorem sub (x y : Reg) : Statement (.sub x y) :=
  row_of_cut (cut_wordXYN 0x8 x y 0x5) rfl

theorem shr (x y : Reg) : Statement (.shr x y) :=
  row_of_cut (cut_wordXYN 0x8 x y 0x6) rfl

theorem subn (x y : Reg) : Statement (.subn x y) :=
  row_of_cut (cut_wordXYN 0x8 x y 0x7) rfl

theorem shl (x y : Reg) : Statement (.shl x y) :=
  row_of_cut (cut_wordXYN 0x8 x y 0xE) rfl

theorem sneReg (x y : Reg) : Statement (.sneReg x y) :=
  row_of_cut (cut_wordXYN 0x9 x y 0x0) rfl

theorem ldI (nnn : Addr12) : Statement (.ldI nnn) :=
  row_of_cut (cut_wordNNN 0xA nnn) rfl

theorem jpV0 (x : Reg) (nnn : Addr12) : Statement (.jpV0 x nnn) :=
  row_of_cut (cut_wordNNN 0xB nnn) rfl

theorem rnd (x : Reg) (nn : Byte) : Statement (.rnd x nn) :=
  row_of_cut (cut_wordXNN 0xC x nn) rfl

theorem drw (x y : Reg) (n : Fin 16) : Statement (.drw x y n) :=
  row_of_cut (cut_wordXYN 0xD x y (nibOf n)) rfl

theorem skp (x : Reg) : Statement (.skp x) :=
  row_of_cut (cut_wordXNN 0xE x 0x9E) rfl

theorem sknp (x : Reg) : Statement (.sknp x) :=
  row_of_cut (cut_wordXNN 0xE x 0xA1) rfl

theorem ldVxDT (x : Reg) : Statement (.ldVxDT x) :=
  row_of_cut (cut_wordXNN 0xF x 0x07) rfl

theorem ldVxK (x : Reg) : Statement (.ldVxK x) :=
  row_of_cut (cut_wordXNN 0xF x 0x0A) rfl

theorem ldDTVx (x : Reg) : Statement (.ldDTVx x) :=
  row_of_cut (cut_wordXNN 0xF x 0x15) rfl

theorem ldSTVx (x : Reg) : Statement (.ldSTVx x) :=
  row_of_cut (cut_wordXNN 0xF x 0x18) rfl

theorem addI (x : Reg) : Statement (.addI x) :=
  row_of_cut (cut_wordXNN 0xF x 0x1E) rfl

theorem ldF (x : Reg) : Statement (.ldF x) :=
  row_of_cut (cut_wordXNN 0xF x 0x29) rfl

theorem ldB (x : Reg) : Statement (.ldB x) :=
  row_of_cut (cut_wordXNN 0xF x 0x33) rfl

theorem storeRegs (x : Reg) : Statement (.storeRegs x) :=
  row_of_cut (cut_wordXNN 0xF x 0x55) rfl

theorem loadRegs (x : Reg) : Statement (.loadRegs x) :=
  row_of_cut (cut_wordXNN 0xF x 0x65) rfl

end Sys2Proof.Laws.EncodedRow
end

