-- ==== Sys2Proof/Laws/Quirks.lean ====
section
/-! SUPPORT. Exchanging the quirk set of a state commutes with every shared operation that reads none of the quirks
exchanged (R5). -/

namespace Sys2Proof.Machine

theorem withQuirks_setResultAndFlag (s : State) (q : Quirks) (x : Reg) (r : Byte) (c : Bool) :
    (s.withQuirks q).setResultAndFlag x r c = (s.setResultAndFlag x r c).withQuirks q := by
  unfold State.setResultAndFlag State.withQuirks
  cases s.cfg.flagWriteOrder <;> rfl

theorem withQuirks_setLogicResult (s : State) (q : Quirks) (x : Reg) (r : Byte)
    (h : s.cfg.quirks.vfReset = q.vfReset) :
    (s.withQuirks q).setLogicResult x r = (s.setLogicResult x r).withQuirks q := by
  unfold State.setLogicResult
  show (if q.vfReset then _ else _) = _
  rw [h, withQuirks_setResultAndFlag]
  cases q.vfReset <;> rfl

theorem withQuirks_bumpIndex (s : State) (q : Quirks) (x : Reg)
    (h : s.cfg.quirks.loadStoreIncrementIndex = q.loadStoreIncrementIndex) :
    (s.withQuirks q).bumpIndex x = (s.bumpIndex x).withQuirks q := by
  unfold State.bumpIndex
  show (if q.loadStoreIncrementIndex then _ else _) = _
  rw [h]
  cases q.loadStoreIncrementIndex <;> rfl

theorem withQuirks_shiftSource (s : State) (q : Quirks) (x y : Reg)
    (h : s.cfg.quirks.shiftUsesSecondOperand = q.shiftUsesSecondOperand) :
    shiftSource x y (s.withQuirks q) = shiftSource x y s := by
  unfold shiftSource
  rw [h]; rfl

theorem withQuirks_jumpRegister (s : State) (q : Quirks) (x : Reg)
    (h : s.cfg.quirks.jumpAddsRegisterX = q.jumpAddsRegisterX) :
    jumpRegister x (s.withQuirks q) = jumpRegister x s := by
  unfold jumpRegister
  rw [h]; rfl

theorem withQuirks_withRange (s : State) (q : Quirks) (len : Nat) {b c : Result}
    (h : b = mapNext (fun t => t.withQuirks q) c) :
    withRange len (s.withQuirks q) b = mapNext (fun t => t.withQuirks q) (withRange len s c) := by
  have hf : rangeFault len (s.withQuirks q) = rangeFault len s := rfl
  unfold withRange
  rw [hf]
  split
  · rfl
  · exact h

theorem withQuirks_withKey (s : State) (q : Quirks) (x : Reg) (b c : Bool → Result)
    (h : ∀ d, b d = mapNext (fun t => t.withQuirks q) (c d)) :
    withKey x (s.withQuirks q) b = mapNext (fun t => t.withQuirks q) (withKey x s c) := by
  by_cases hk : (s.reg x).toNat < 16
  · unfold withKey
    rw [dif_pos hk, dif_pos (show ((s.withQuirks q).reg x).toNat < 16 from hk)]
    exact h _
  · unfold withKey
    rw [dif_neg hk, dif_neg (show ¬((s.withQuirks q).reg x).toNat < 16 from hk)]
    rfl

theorem withQuirks_drawnCells (s : State) (q : Quirks) (x y : Reg) (n : Fin 16)
    (h : s.cfg.quirks.wrapSprites = q.wrapSprites) : drawnCells x y n (s.withQuirks q) = drawnCells x y n s := by
  have hp : pixelCell (s.withQuirks q).cfg = pixelCell s.cfg := by
    funext a b
    unfold pixelCell
    rw [h]; rfl
  have hr : spriteRow (s.withQuirks q).cfg = spriteRow s.cfg := by
    funext a b c
    unfold spriteRow
    rw [hp]
  have hs : ∀ bytes a b, spriteCells (s.withQuirks q).cfg a b bytes = spriteCells s.cfg a b bytes := by
    intro bytes
    induction bytes with
    | nil => intros; rfl
    | cons c rest ih => intro a b; rw [spriteCells, spriteCells, hr, ih]
  exact hs _ _ _

end Sys2Proof.Machine
end

