-- ==== Sys2Proof/Tests/Slice0.lean ====
section
/-! SUPPORT. Tests and witnesses. The expected results are the spec's own: T<n> is the vector of that number in
spec/95_test_vectors.md, and the words of the decode tests are written out from the patterns of spec/30_encoding.md R66.
Every `witness_` theorem shows concrete states and operands that meet the hypotheses of the obligation it is named
after, each clause at a boundary of its range. -/

namespace Sys2Proof.Tests

open Sys2Proof.Machine

/-! ## Well-formedness -/

/-- The one check on instructions: JP V0 whose two fields disagree. -/
theorem test_wf_refuses_jpV0_mismatch :
    (Instr.jpV0 3 0x100).wf = false ∧ (Instr.jpV0 0 0xFFF).wf = false ∧ (Instr.jpV0 3 0x3FF).wf = true := by decide

/-- The two checks on configurations: `tickRate` and geometry (R4, U16). The quirk bits are free in every variant, so
CosmacVIP with ShiftUsesSecondOperand is accepted (D23). -/
theorem test_config_refused :
    configWf { defaultConfig with tickRate := 0 } = false ∧
    configWf { defaultConfig with geometry := .extended } = false ∧
    configWf { defaultConfig with quirks := { noQuirks with shiftUsesSecondOperand := true } } = true ∧
    configWf { defaultConfig with variant := .superChip } = false ∧ configWf defaultConfig = true := by decide

/-! ## Decoding: one word for every row of R66, and words of no row (R67) -/

theorem test_decode_control_flow :
    decodeTableWord 16 0x00EE = some .ret ∧ decodeTableWord 16 0x1FFF = some (.jp 0xFFF) ∧
    decodeTableWord 16 0x2ABC = some (.call 0xABC) ∧ decodeTableWord 16 0x3A7F = some (.seImm 10 0x7F) ∧
    decodeTableWord 16 0x4A7F = some (.sneImm 10 0x7F) ∧ decodeTableWord 16 0x5120 = some (.seReg 1 2) ∧
    decodeTableWord 16 0x9EF0 = some (.sneReg 14 15) ∧ decodeTableWord 16 0xB2FF = some (.jpV0 2 0x2FF) := by decide

theorem test_decode_load_alu :
    decodeTableWord 16 0x6A02 = some (.ldImm 10 2) ∧ decodeTableWord 16 0x7F01 = some (.addImm 15 1) ∧
    decodeTableWord 16 0x8F10 = some (.ldReg 15 1) ∧ decodeTableWord 16 0x8121 = some (.orReg 1 2) ∧
    decodeTableWord 16 0x81F2 = some (.andReg 1 15) ∧ decodeTableWord 16 0x8123 = some (.xorReg 1 2) ∧
    decodeTableWord 16 0x8AB4 = some (.addReg 10 11) := by decide

theorem test_decode_subtract_shift_random :
    decodeTableWord 16 0x8125 = some (.sub 1 2) ∧ decodeTableWord 16 0x8F26 = some (.shr 15 2) ∧
    decodeTableWord 16 0x8127 = some (.subn 1 2) ∧ decodeTableWord 16 0x812E = some (.shl 1 2) ∧
    decodeTableWord 16 0xC1F0 = some (.rnd 1 0xF0) := by decide

theorem test_decode_display :
    decodeTableWord 16 0x00E0 = some .cls ∧ decodeTableWord 16 0xD125 = some (.drw 1 2 5) := by decide

theorem test_decode_keypad_timers :
    decodeTableWord 16 0xE19E = some (.skp 1) ∧ decodeTableWord 16 0xE2A1 = some (.sknp 2) ∧
    decodeTableWord 16 0xF307 = some (.ldVxDT 3) ∧ decodeTableWord 16 0xF40A = some (.ldVxK 4) ∧
    decodeTableWord 16 0xF515 = some (.ldDTVx 5) ∧ decodeTableWord 16 0xF618 = some (.ldSTVx 6) := by decide

theorem test_decode_index_memory :
    decodeTableWord 16 0xA123 = some (.ldI 0x123) ∧ decodeTableWord 16 0xF71E = some (.addI 7) ∧
    decodeTableWord 16 0xF829 = some (.ldF 8) ∧ decodeTableWord 16 0xF933 = some (.ldB 9) ∧
    decodeTableWord 16 0xFA55 = some (.storeRegs 10) ∧ decodeTableWord 16 0xFB65 = some (.loadRegs 11) := by decide

/-- T16, T20, T66, T67, T104 to T106, T145. -/
theorem test_decode_refuses :
    decodeTableWord 16 0x5121 = none ∧ decodeTableWord 16 0x9121 = none ∧ decodeTableWord 16 0x8128 = none ∧
    decodeTableWord 16 0x812F = none ∧ decodeTableWord 16 0xE09F = none ∧ decodeTableWord 16 0xF000 = none ∧
    decodeTableWord 16 0xF075 = none ∧ decodeTableWord 16 0x00E1 = none ∧ decodeTableWord 16 0x0FFF = none := by decide

/-- T16, and a byte alone is no word (R61): rejected by name. -/
theorem test_decode_names_what_it_refuses :
    decode 0x5121 = .error (.invalidOpcode 0x5121) ∧ decodeBytes [0x00] = .error .truncated := ⟨rfl, rfl⟩

/-- T146: the fields of D125. -/
theorem test_cut_D125 :
    cut 0xD125 = { cls := 0xD, x := 1, y := 2, n := 5, nn := 0x25, nnn := 0x125 } := by decide

/-! ## One step -/

/-- The answer is a next state with the property. -/
def answers (r : Result) (p : State → Bool) : Bool :=
  match r with
  | .next t => p t
  | .fault _ => false
  | .refused _ => false

/-- The answer is this fault. -/
def faults (r : Result) (f : Fault) : Bool :=
  match r with
  | .next _ => false
  | .fault g => decide (g = f)
  | .refused _ => false

/-- The machine of the vectors' conventions, with one step of the word `w` at `pc`. -/
def run (w : Nat) (s : State) : Result := step (s.withFetchWord 16 w)

def fresh : State := State.reset

/-- A fresh machine with these quirks. -/
def quirky (q : Quirks) : State := State.reset.withQuirks q

/-- A fresh machine of the extended geometry. -/
def wide : State := State.construct { defaultConfig with variant := .superChip, geometry := .extended }

/-- A fresh machine of FAULT_POLICY = skip. -/
def skipping : State := State.construct { defaultConfig with faultPolicy := .skip }

/-- The key `k` down. -/
def down (k : Reg) (s : State) : State := s.setKeys (s.keys.set k true)

/-- T1. -/
theorem test_ret :
    answers (run 0x00EE ((fresh.setPc 0x300).setStack (fresh.stack.set 0 0x200) |>.setSp 1))
      (fun t => t.sp == 0 && t.pc == 0x202) = true := by decide

/-- T3. -/
theorem test_ret_underflow : faults (run 0x00EE (fresh.setPc 0x300)) (.stackUnderflow 0x300) = true := by decide

/-- T4. -/
theorem test_jp : answers (run 0x1FFF fresh) (fun t => t.pc == 0xFFF) = true := by decide

/-- T6. -/
theorem test_call :
    answers (run 0x2ABC ((fresh.setPc 0x250).setSp 15))
      (fun t => t.stack[15] == 0x250 && t.sp == 16 && t.pc == 0xABC) = true := by decide

/-- T7. -/
theorem test_call_overflow :
    faults (run 0x2ABC ((fresh.setPc 0x250).setSp 16)) (.stackOverflow 0x250) = true := by decide

/-- T8. -/
theorem test_seImm : answers (run 0x3A7F (fresh.setReg 10 0x7F)) (fun t => t.pc == 0x204) = true := by decide

/-- T10: at the last word of memory the skip does not wrap. -/
theorem test_seImm_at_the_top : answers (run 0x3000 (fresh.setPc 0xFFE)) (fun t => t.pc == 0x1002) = true := by
  decide

/-- T12. -/
theorem test_sneImm : answers (run 0x4A7F (fresh.setReg 10 0x7E)) (fun t => t.pc == 0x204) = true := by decide

/-- T14. -/
theorem test_seReg :
    answers (run 0x5120 ((fresh.setReg 1 3).setReg 2 4)) (fun t => t.pc == 0x202) = true := by decide

/-- T19. -/
theorem test_sneReg : answers (run 0x9EF0 (fresh.setReg 14 1)) (fun t => t.pc == 0x204) = true := by decide

/-- T21. -/
theorem test_jpV0 :
    answers (run 0xB2FF ((fresh.setReg 0 0xFF).setReg 2 1)) (fun t => t.pc == 0x3FE) = true := by decide

/-- T22. -/
theorem test_jpV0_register_x :
    answers (run 0xB2FF (((quirky { noQuirks with jumpAddsRegisterX := true }).setReg 0 0xFF).setReg 2 1))
      (fun t => t.pc == 0x300) = true := by decide

/-- T30. -/
theorem test_ldImm : answers (run 0x6FFF fresh) (fun t => t.reg VF == 0xFF && t.pc == 0x202) = true := by decide

/-- T31. -/
theorem test_addImm :
    answers (run 0x7001 (fresh.setReg 0 0xFF)) (fun t => t.reg 0 == 0 && t.reg VF == 0) = true := by decide

/-- T33. -/
theorem test_ldReg : answers (run 0x8F10 (fresh.setReg 1 0xAB)) (fun t => t.reg VF == 0xAB) = true := by decide

/-- T34. -/
theorem test_orReg :
    answers (run 0x8121 (((fresh.setReg 1 0x55).setReg 2 0xAA).setReg VF 1))
      (fun t => t.reg 1 == 0xFF && t.reg VF == 1) = true := by decide

/-- T37: under VfReset the flag is written over the result. -/
theorem test_orReg_vfReset :
    answers (run 0x8F11 (((quirky { noQuirks with vfReset := true }).setReg VF 1).setReg 1 0x80))
      (fun t => t.reg VF == 0) = true := by decide

/-- T38: the old VF is the operand. -/
theorem test_andReg_vfReset :
    answers (run 0x81F2 (((quirky { noQuirks with vfReset := true }).setReg 1 0xFF).setReg VF 1))
      (fun t => t.reg 1 == 1 && t.reg VF == 0) = true := by decide

/-- T39. -/
theorem test_xorReg :
    answers (run 0x8113 ((fresh.setReg 1 0x5A).setReg VF 7)) (fun t => t.reg 1 == 0 && t.reg VF == 7) = true := by
  decide

/-- T42. -/
theorem test_addReg :
    answers (run 0x8124 ((fresh.setReg 1 0x80).setReg 2 0x80)) (fun t => t.reg 1 == 0 && t.reg VF == 1) = true := by
  decide

/-- T45: with `x = 15` the carry is written over the sum. -/
theorem test_addReg_to_VF :
    answers (run 0x8F14 ((fresh.setReg VF 1).setReg 1 2)) (fun t => t.reg VF == 0) = true := by decide

/-- T48. -/
theorem test_sub :
    answers (run 0x8125 (fresh.setReg 2 1)) (fun t => t.reg 1 == 0xFF && t.reg VF == 0) = true := by decide

/-- T47: equal operands do not borrow. -/
theorem test_sub_equal :
    answers (run 0x8125 ((fresh.setReg 1 0x10).setReg 2 0x10)) (fun t => t.reg 1 == 0 && t.reg VF == 1) = true := by
  decide

/-- T55: it is `V[y]` that is shifted. -/
theorem test_shr :
    answers (run 0x8126 ((fresh.setReg 1 0xFF).setReg 2 2)) (fun t => t.reg 1 == 1 && t.reg VF == 0) = true := by
  decide

/-- T56. -/
theorem test_shr_in_place :
    answers (run 0x8126 (((quirky { noQuirks with shiftUsesSecondOperand := true }).setReg 1 0xFF).setReg 2 2))
      (fun t => t.reg 1 == 0x7F && t.reg VF == 1) = true := by decide

/-- T53. -/
theorem test_subn :
    answers (run 0x8127 (fresh.setReg 1 1)) (fun t => t.reg 1 == 0xFF && t.reg VF == 0) = true := by decide

/-- T60. -/
theorem test_shl :
    answers (run 0x812E ((fresh.setReg 1 0xFF).setReg 2 0x40)) (fun t => t.reg 1 == 0x80 && t.reg VF == 0) = true := by
  decide

/-- T61. -/
theorem test_shl_in_place :
    answers (run 0x812E (((quirky { noQuirks with shiftUsesSecondOperand := true }).setReg 1 0xFF).setReg 2 0x40))
      (fun t => t.reg 1 == 0xFE && t.reg VF == 1) = true := by decide

/-- T64: whatever is drawn, a mask of 0 gives 0; one byte is drawn. -/
theorem test_rnd_mask_zero :
    ∃ t, execRnd 1 0 (fresh.setReg 1 9) = .next t ∧ t.reg 1 = 0 ∧ t.draws = 1 :=
  ⟨_, rfl, (rfl : _ = Config.drawnByte 0 &&& 0).trans BitVec.and_zero, rfl⟩

/-- T70. -/
theorem test_cls :
    answers (run 0x00E0 ((fresh.setFb [0, 63, 2047]).setReg VF 1))
      (fun t => t.fb == [] && t.pc == 0x202 && t.reg VF == 1) = true := by decide

/-- T79: `mem[300..301] = F0 0F`, lit before (4,4), (11,5), (20,20). -/
theorem test_drw_collision :
    answers (run 0xD012 ((((fresh.setReg 0 4).setReg 1 4).setIndex 0x300 |>.memWriteBytes 0x300 [0xF0, 0x0F]).setFb
        [260, 331, 1300]))
      (fun t => t.fb == [261, 262, 263, 328, 329, 330, 1300] && t.reg VF == 1) = true := by decide

/-- T78: in the extended geometry, under WrapSprites, the second pixel is at (0,63). -/
theorem test_drw_wraps :
    answers (run 0xD011 ((((wide.withQuirks { noQuirks with wrapSprites := true }).setReg 0 0xFF).setReg 1 0xFF
        |>.setIndex 0x300).memWriteBytes 0x300 [0xC0]))
      (fun t => t.fb == [8064, 8191] && t.reg VF == 0) = true := by decide

/-- T90. -/
theorem test_skp : answers (run 0xE09E (down 15 (fresh.setReg 0 15))) (fun t => t.pc == 0x204) = true := by decide

/-- T92: the index is not reduced to 4 bits. -/
theorem test_skp_out_of_range :
    faults (run 0xE09E (down 0 (fresh.setReg 0 0x10))) (.keyIndexOutOfRange 0x10) = true := by decide

/-- T93. -/
theorem test_sknp : answers (run 0xE0A1 (down 0 fresh)) (fun t => t.pc == 0x202) = true := by decide

/-- T97: the lowest key. -/
theorem test_ldVxK :
    answers (run 0xF00A (down 0 (down 15 (fresh.setReg 0 9)))) (fun t => t.reg 0 == 0 && t.pc == 0x202) = true := by
  decide

/-- T99: no key down. -/
theorem test_ldVxK_waits :
    answers (run 0xF00A (fresh.setReg 0 9)) (fun t => t.reg 0 == 9 && t.pc == 0x200) = true := by decide

/-- T100. -/
theorem test_ldVxDT :
    answers (run 0xF007 (fresh.setDt 255)) (fun t => t.reg 0 == 0xFF && t.dt == 255) = true := by decide

/-- T102. -/
theorem test_ldDTVx : answers (run 0xF115 (fresh.setDt 7)) (fun t => t.dt == 0) = true := by decide

/-- T103. -/
theorem test_ldSTVx :
    answers (run 0xF118 (fresh.setReg 1 0xFF)) (fun t => t.st == 255 && t.dt == 0) = true := by decide

/-- T110. -/
theorem test_ldI : answers (run 0xAFFF fresh) (fun t => t.index == 0x0FFF && t.pc == 0x202) = true := by decide

/-- T112. -/
theorem test_addI_wraps :
    answers (run 0xF01E (((fresh.setIndex 0xFFFF).setReg 0 2).setReg VF 7))
      (fun t => t.index == 1 && t.reg VF == 7) = true := by decide

/-- T116: no masking. -/
theorem test_ldF : answers (run 0xF029 (fresh.setReg 0 0xFF)) (fun t => t.index == 0x04FB) = true := by decide

/-- T117. -/
theorem test_ldB :
    answers (run 0xF033 ((fresh.setReg 0 0xC7).setIndex 0xFFD))
      (fun t => t.memReadBytes 0xFFD 3 == [1, 9, 9] && t.index == 0xFFD) = true := by decide

/-- T118. -/
theorem test_ldB_out_of_range :
    faults (run 0xF033 ((fresh.setReg 0 0xC7).setIndex 0xFFE)) (.invalidAddress 4096) = true := by decide

/-- T125. -/
theorem test_storeRegs :
    answers (run 0xF155 ((((quirky { noQuirks with loadStoreIncrementIndex := true }).setReg 0 0xAA).setReg 1 0xBB
        |>.setIndex 0xFFE)))
      (fun t => t.memReadBytes 0xFFE 2 == [0xAA, 0xBB] && t.index == 0x1000) = true := by decide

/-- T122: no partial store. -/
theorem test_storeRegs_out_of_range :
    faults (run 0xF155 ((fresh.setReg 0 0xAA).setIndex 0xFFF)) (.invalidAddress 4096) = true := by decide

/-- T126: the font. -/
theorem test_loadRegs :
    answers (run 0xF165 fresh) (fun t => t.reg 0 == 0xF0 && t.reg 1 == 0x90 && t.reg 2 == 0 && t.index == 0) = true := by
  decide

/-- T129. -/
theorem test_loadRegs_out_of_range :
    faults (run 0xF365 (fresh.setIndex 0xFFD)) (.invalidAddress 4096) = true := by decide

/-! ## The step and the host -/

/-- T142: an odd `pc` is as good as an even one. -/
theorem test_odd_pc :
    answers (run 0x6A02 (fresh.setPc 0x201)) (fun t => t.reg 10 == 2 && t.pc == 0x203) = true := by decide

/-- T143: bytes are not swapped. -/
theorem test_byte_order :
    faults (step (((fresh.memWriteBytes 0x200 [0x02, 0x6A]).setProgramSize 2).setRunState .running))
      (.invalidOpcode 0x026A) = true := by decide

/-- T141. -/
theorem test_fetch_past_memory :
    faults (step (((fresh.setPc 0xFFF).setProgramSize 3584).setRunState .running)) (.invalidAddress 0xFFF) = true := by
  decide

/-- T148. -/
theorem test_paused : faults (step (fresh.setRunState .paused)) (.notRunning .paused) = true := by decide

/-- T149. -/
theorem test_end_of_program :
    answers (step (((fresh.setPc 0x204).setProgramSize 4).setRunState .running))
      (fun t => t.runState == .finished && t.pc == 0x204) = true := by decide

/-- R186: under FAULT_POLICY = skip the faulting word is stepped over. -/
theorem test_skip_policy :
    answers (run 0x00EE skipping)
      (fun t => t.pc == 0x202 && t.sp == 0) = true := by decide

/-- R190, D37: a Step that raises at dispatch is counted too, and as the last of its frame it ticks. -/
theorem test_skip_policy_counts :
    answers (run 0x0000 ((skipping.setFrameStep 9).setDt 2)) (fun t => t.pc == 0x202 && t.dt == 1 && t.frameStep == 0)
      = true := by decide

/-- R190, R192: a host tick under `paced`, and a key call inside a frame under `per_frame`, are refused. -/
theorem test_host_calls_not_due :
    hostOp .frameTick (fresh.setRunState .running) = .refused .tickNotDue ∧
    hostOp (.keyDown 7) (fresh.setFrameStep 1) = .refused .keyCallInsideFrame ∧
    hostOp (.writeRunState .running) fresh = .refused (.runStateArc .off .running) := ⟨rfl, rfl, rfl⟩

/-- R190: the tenth Step of a frame of ten ends it, and both timers count down; zero stays zero (T107). -/
theorem test_frame_end :
    answers (run 0x1200 ((fresh.setFrameStep 9).setDt 2))
      (fun t => t.frameStep == 0 && t.dt == 1 && t.st == 0) = true := by decide

/-- T162. -/
theorem test_load_too_long : load (List.replicate 3585 0) fresh = .fault (.sizeExceeded 3585) := by
  unfold load
  rw [dif_neg (by rw [List.length_replicate]; decide), List.length_replicate]

/-- T163: a load of nothing that the host then starts. -/
theorem test_empty_program :
    answers (runEvents [.host (.load []), .host (.writeRunState .running), .step] fresh)
      (fun t => t.runState == .finished) = true := by decide

/-- T165. -/
theorem test_keys :
    answers (hostOp (.keyDown 7) fresh) (fun t => t.key 7 && !t.key 8) = true ∧
    answers (hostOp .keysClear (down 7 fresh)) (fun t => !t.key 7) = true := by decide

/-- T166: `has_color` after a draw at (0, 0) of a row with column 5 set and column 6 clear, here on row 3. -/
theorem test_hasColor :
    hasColor (fresh.setFb [197]) 5 3 = .ok true ∧ hasColor (fresh.setFb [197]) 6 3 = .ok false ∧
    hasColor fresh 64 0 = .error (.outsideFrame 64 0) := by
  refine ⟨rfl, rfl, rfl⟩

/-! ## Witnesses: the hypotheses of the obligations can be met, each clause at a boundary -/

/-- The first and the last row of the table. -/
theorem witness_RowsAreSelectedByMatchAndMask :
    (dispatch (cut 0x00E0)).map OpRow.row = some 1 ∧ (0x00E0 : Word) &&& 0xFFFF = 0x00E0 ∧
    (dispatch (cut 0xFF65)).map OpRow.row = some 34 ∧ (0xFF65 : Word) &&& 0xF0FF = 0xF065 ∧
    (dispatch (cut 0xFF66)).map OpRow.row = none := by decide

/-- A word with a row, and a word with none. -/
theorem witness_DispatchIsTotalAndItsRowsAreDisjoint :
    (∃ r ∈ opcodeMap, r.matchesFields (cut 0x8AB4) = true) ∧ ∀ r ∈ opcodeMap, r.matchesFields (cut 0x8008) = false :=
  ⟨⟨⟨14, "ADD_Vx__Vy", 0x8, none, none, some 0x4, fun f => .addReg (regOf f.x) (regOf f.y)⟩,
    by simp [opcodeMap, opcodeRowsMid], by decide⟩, by decide⟩

/-- Addresses and operands at the ends of their ranges, and JP V0 whose fields agree. -/
theorem witness_EveryPatternDecodesToItsInstruction :
    decodeTableWord 16 0xFF65 = some (.loadRegs 15) ∧ decodeTableWord 16 0xDFFF = some (.drw 15 15 15) ∧
    topNibbleIs 15 0xFFF = true := by decide

/-- A word on each side of each clause of R67. -/
theorem witness_IllegalWordsAreTheListedOnes :
    decodeTableWord 16 0x00DF = none ∧ decodeTableWord 16 0x00EE = some .ret ∧
    decodeTableWord 16 0x5001 = none ∧ decodeTableWord 16 0x5000 = some (.seReg 0 0) ∧
    decodeTableWord 16 0x8008 = none ∧ decodeTableWord 16 0x800E = some (.shl 0 0) ∧
    decodeTableWord 16 0x900F = none ∧ decodeTableWord 16 0x9000 = some (.sneReg 0 0) ∧
    decodeTableWord 16 0xE0A0 = none ∧ decodeTableWord 16 0xE0A1 = some (.sknp 0) ∧
    decodeTableWord 16 0xF066 = none ∧ decodeTableWord 16 0xF065 = some (.loadRegs 0) := by decide

theorem witness_DecodingAnEncodedInstructionGivesItBack :
    (Instr.jpV0 15 0xFFF).wf = true ∧ (Instr.jpV0 0 0x0FF).wf = true ∧ (Instr.drw 15 0 15).wf = true := by decide

theorem witness_ADecodedWordIsTheEncodingOfItsInstruction :
    decode 0xBFFF = .ok (.jpV0 15 0xFFF) ∧ decode 0xFF65 = .ok (.loadRegs 15) := ⟨rfl, rfl⟩

/-- `tickRate` at its least, and the extended geometry. -/
theorem witness_ConstructionGivesTheResetTable :
    configWf { defaultConfig with tickRate := 1 } = true ∧
    configWf { defaultConfig with quirks := ⟨true, true, true, true, true, true⟩ } = true ∧
    configWf { defaultConfig with variant := .xoChip, geometry := .extended } = true := by decide

theorem witness_LoadStoresTheRomVerbatimOrFails :
    (List.replicate 3584 (0 : Byte)).length ≤ 3584 ∧ fresh.rom = none ∧
    3584 < (List.replicate 3585 (0 : Byte)).length ∧ (fresh.setRom (some [])).rom ≠ none := by
  rw [List.length_replicate, List.length_replicate]
  decide

theorem witness_WarmResetReconstructsAndReloads :
    (fresh.setRom (some [0x12, 0x00])).rom = some [0x12, 0x00] ∧ ([0x12, 0x00] : List Byte).length ≤ 3584 ∧
    fresh.rom = none := by decide

theorem witness_BootEndsInTheLaunchState :
    configWf defaultConfig = true ∧ (List.replicate 3584 (0 : Byte)).length ≤ 3584 := by
  rw [List.length_replicate]
  decide

/-- The machine with a word at `pc`, Running. -/
def at_ (w : Nat) (s : State) : State := s.withFetchWord 16 w

/-- At the last address a word can be fetched from: an instruction that completes, one that raises under `halt`, one
that raises under `skip`. -/
theorem witness_AStepRunsTheDecodedInstruction :
    (StepEnabled (at_ 0x6FFF (fresh.setPc 4094)) ∧ (at_ 0x6FFF (fresh.setPc 4094)).pc.toNat ≤ 4094 ∧
      decode (wordAtPc (at_ 0x6FFF (fresh.setPc 4094))) = .ok (.ldImm 15 0xFF) ∧
      ∃ t, exec (.ldImm 15 0xFF) (at_ 0x6FFF (fresh.setPc 4094)) = .next t) ∧
    (StepEnabled (at_ 0x00EE fresh) ∧ decode (wordAtPc (at_ 0x00EE fresh)) = .ok .ret ∧
      exec .ret (at_ 0x00EE fresh) = .fault (.stackUnderflow 0x200) ∧ (at_ 0x00EE fresh).cfg.faultPolicy = .halt) ∧
    (StepEnabled (at_ 0x00EE skipping) ∧ decode (wordAtPc (at_ 0x00EE skipping)) = .ok .ret ∧
      exec .ret (at_ 0x00EE skipping) = .fault (.stackUnderflow 0x200) ∧
      (at_ 0x00EE skipping).cfg.faultPolicy = .skip) :=
  ⟨⟨⟨rfl, by decide⟩, by decide, rfl, _, rfl⟩, ⟨⟨rfl, by decide⟩, rfl, rfl, rfl⟩, ⟨⟨rfl, by decide⟩, rfl, rfl, rfl⟩⟩

/-- The first address a fetch fails at, and an illegal word at the last one it does not. -/
theorem witness_FetchAndDispatchRaiseBeforeTheHandler :
    (StepEnabled (at_ 0 (fresh.setPc 4095)) ∧ (at_ 0 (fresh.setPc 4095)).cfg.faultPolicy = .halt ∧
      4095 ≤ (at_ 0 (fresh.setPc 4095)).pc.toNat) ∧
    (StepEnabled (at_ 0x5121 (fresh.setPc 4094)) ∧ (at_ 0x5121 (fresh.setPc 4094)).pc.toNat ≤ 4094 ∧
      decode (wordAtPc (at_ 0x5121 (fresh.setPc 4094))) =
        .error (.invalidOpcode (wordAtPc (at_ 0x5121 (fresh.setPc 4094))))) :=
  ⟨⟨⟨rfl, by decide⟩, rfl, by decide⟩, ⟨⟨rfl, by decide⟩, by decide, rfl⟩⟩

theorem witness_ReachingTheProgramEndFinishesTheRun :
    (fresh.setRunState .running).runState = .running ∧
    0x200 + (fresh.setRunState .running).programSize.val ≤ (fresh.setRunState .running).pc.toNat := by decide

theorem witness_NoStepIsEnabledOutsideRunning : fresh.runState ≠ .running := by decide

/-- A fresh machine of FAULT_POLICY = skip, TICK_MODEL = free and KEY_MODEL = free. -/
def skippingFree : State :=
  State.construct { defaultConfig with faultPolicy := .skip, tickModel := .free, keyModel := .free }

/-- A Step that raises in its handler, at dispatch, and at the fetch; inside the frame, and the last of the frame under
each TICK_MODEL and KEY_MODEL. -/
theorem witness_SkipPolicyStepsOverAFaultingWord :
    (StepEnabled (at_ 0x00EE (skipping.setFrameStep 8)) ∧
      (at_ 0x00EE (skipping.setFrameStep 8)).cfg.faultPolicy = .skip ∧
      coreStep (at_ 0x00EE (skipping.setFrameStep 8)) = .fault (.stackUnderflow 0x200) ∧
      (at_ 0x00EE (skipping.setFrameStep 8)).frameStep + 1 < (at_ 0x00EE (skipping.setFrameStep 8)).cfg.tickRate) ∧
    (StepEnabled (at_ 0x0000 (skipping.setFrameStep 9)) ∧
      (at_ 0x0000 (skipping.setFrameStep 9)).cfg.faultPolicy = .skip ∧
      coreStep (at_ 0x0000 (skipping.setFrameStep 9)) = .fault (.invalidOpcode 0x0000) ∧
      (at_ 0x0000 (skipping.setFrameStep 9)).frameStep + 1 = (at_ 0x0000 (skipping.setFrameStep 9)).cfg.tickRate ∧
      (at_ 0x0000 (skipping.setFrameStep 9)).cfg.tickModel = .paced ∧
      (at_ 0x0000 (skipping.setFrameStep 9)).cfg.keyModel = .perFrame) ∧
    (StepEnabled (at_ 0 ((skippingFree.setFrameStep 9).setPc 4095)) ∧
      (at_ 0 ((skippingFree.setFrameStep 9).setPc 4095)).cfg.faultPolicy = .skip ∧
      coreStep (at_ 0 ((skippingFree.setFrameStep 9).setPc 4095)) = .fault (.invalidAddress 4095) ∧
      (at_ 0 ((skippingFree.setFrameStep 9).setPc 4095)).frameStep + 1 =
        (at_ 0 ((skippingFree.setFrameStep 9).setPc 4095)).cfg.tickRate ∧
      (at_ 0 ((skippingFree.setFrameStep 9).setPc 4095)).cfg.tickModel = .free ∧
      (at_ 0 ((skippingFree.setFrameStep 9).setPc 4095)).cfg.keyModel = .free) :=
  ⟨⟨⟨rfl, by decide⟩, rfl, rfl, by decide⟩, ⟨⟨rfl, by decide⟩, rfl, rfl, rfl, rfl, rfl⟩,
    ⟨⟨rfl, by decide⟩, rfl, rfl, rfl, rfl, rfl⟩⟩

/-- A Step inside the frame, and the last of the frame under each TICK_MODEL and KEY_MODEL. -/
theorem witness_TheLastStepOfAFrameTicksTheTimers :
    (StepEnabled (at_ 0x1200 (fresh.setFrameStep 8)) ∧ (at_ 0x1200 (fresh.setFrameStep 8)).pc.toNat ≤ 4094 ∧
      decode (wordAtPc (at_ 0x1200 (fresh.setFrameStep 8))) = .ok (.jp 0x200) ∧
      (∃ t, exec (.jp 0x200) (at_ 0x1200 (fresh.setFrameStep 8)) = .next t) ∧
      (at_ 0x1200 (fresh.setFrameStep 8)).frameStep + 1 < (at_ 0x1200 (fresh.setFrameStep 8)).cfg.tickRate) ∧
    (StepEnabled (at_ 0x1200 (fresh.setFrameStep 9)) ∧
      decode (wordAtPc (at_ 0x1200 (fresh.setFrameStep 9))) = .ok (.jp 0x200) ∧
      (∃ t, exec (.jp 0x200) (at_ 0x1200 (fresh.setFrameStep 9)) = .next t) ∧
      (at_ 0x1200 (fresh.setFrameStep 9)).frameStep + 1 = (at_ 0x1200 (fresh.setFrameStep 9)).cfg.tickRate ∧
      (at_ 0x1200 (fresh.setFrameStep 9)).cfg.tickModel = .paced ∧
      (at_ 0x1200 (fresh.setFrameStep 9)).cfg.keyModel = .perFrame) ∧
    (StepEnabled (at_ 0x1200 (skippingFree.setFrameStep 9)) ∧
      decode (wordAtPc (at_ 0x1200 (skippingFree.setFrameStep 9))) = .ok (.jp 0x200) ∧
      (∃ t, exec (.jp 0x200) (at_ 0x1200 (skippingFree.setFrameStep 9)) = .next t) ∧
      (at_ 0x1200 (skippingFree.setFrameStep 9)).frameStep + 1 =
        (at_ 0x1200 (skippingFree.setFrameStep 9)).cfg.tickRate ∧
      (at_ 0x1200 (skippingFree.setFrameStep 9)).cfg.tickModel = .free ∧
      (at_ 0x1200 (skippingFree.setFrameStep 9)).cfg.keyModel = .free) :=
  ⟨⟨⟨rfl, by decide⟩, by decide, rfl, ⟨_, rfl⟩, by decide⟩, ⟨⟨rfl, by decide⟩, rfl, ⟨_, rfl⟩, rfl, rfl, rfl⟩,
    ⟨⟨rfl, by decide⟩, rfl, ⟨_, rfl⟩, rfl, rfl, rfl⟩⟩

/-- Where the host may tick, and each of the two reasons why it may not. -/
theorem witness_FrameTickCountsBothTimersDown :
    ((skippingFree.setRunState .running).cfg.tickModel = .free ∧
      (skippingFree.setRunState .running).runState = .running) ∧
    (fresh.setRunState .running).cfg.tickModel = .paced ∧ (skippingFree.setRunState .paused).runState ≠ .running := by
  decide

/-- The start of a frame, inside a frame under each KEY_MODEL, and the first number that is no key. -/
theorem witness_KeyCallsSetOneLatchAndClearAll :
    fresh.frameStep = 0 ∧ (skippingFree.setFrameStep 3).cfg.keyModel = .free ∧
    ((fresh.setFrameStep 1).cfg.keyModel = .perFrame ∧ (fresh.setFrameStep 1).frameStep ≠ 0) ∧ 16 ≤ 16 := by
  decide

theorem witness_HasColorReadsOneCellOfTheFrame : InFrame fresh 63 31 ∧ ¬InFrame fresh 64 31 ∧ InFrame wide 127 63 := by
  unfold InFrame
  decide

/-- Each arc of the host, and writes that are none: Off to Running with no load, and out of Finished. -/
theorem witness_TheHostWritesRunStateAlongTheTable :
    HostMayWrite (fresh.setRom (some [])) .running ∧ HostMayWrite (fresh.setRunState .running) .paused ∧
    HostMayWrite (fresh.setRunState .paused) .running ∧ HostMayWrite (fresh.setRunState .finished) .off ∧
    ¬HostMayWrite fresh .running ∧ ¬HostMayWrite (fresh.setRunState .finished) .running ∧
    ¬HostMayWrite (fresh.setRunState .running) .finished ∧ ¬HostMayWrite (fresh.setRunState .paused) .paused := by
  refine ⟨?_, ?_, ?_, ?_, ?_, ?_, ?_, ?_⟩ <;> unfold HostMayWrite <;> decide

/-- A state with the invariant that runs an instruction. -/
theorem witness_EveryStepKeepsTheInvariant :
    (at_ 0x6FFF fresh).Inv ∧ ∃ t, step (at_ 0x6FFF fresh) = .next t ∧ t.reg 15 = 0xFF :=
  ⟨⟨by decide, by decide, by decide, by decide, by decide, fun _ h => nomatch h⟩, _, rfl, rfl⟩

/-- A step and a load, each from a state with the invariant. -/
theorem witness_EveryEventKeepsTheInvariant :
    ((at_ 0x6FFF fresh).Inv ∧ ∃ t, applyEvent .step (at_ 0x6FFF fresh) = .next t) ∧
    (fresh.Inv ∧ ∃ t, applyEvent (.host (.load [0x12, 0x00])) fresh = .next t) :=
  ⟨⟨witness_EveryStepKeepsTheInvariant.1, _, rfl⟩,
    ⟨⟨by decide, by decide, by decide, by decide, by decide, fun _ h => nomatch h⟩, _, rfl⟩⟩

theorem witness_EveryReachableStateHasTheInvariant : Reachable fresh := .construct defaultConfig fresh rfl

/-- An instruction on each side of its condition. -/
theorem witness_InstructionsRaiseExactlyWhereTheTableSays :
    raised (.storeRegs 15) (fresh.setIndex 0xFF0) = none ∧
    raised (.storeRegs 15) (fresh.setIndex 0xFF1) = some (.invalidAddress 4096) ∧
    raised (.drw 0 0 0) (fresh.setIndex 0x1000) = none ∧
    raised (.drw 0 0 1) (fresh.setIndex 0x1000) = some (.invalidAddress 4096) ∧
    raised (.skp 0) (fresh.setReg 0 15) = none ∧
    raised (.skp 0) (fresh.setReg 0 16) = some (.keyIndexOutOfRange 16) := by decide

/-- The storing, pushing, drawing, loading and random forms, and a cell that the draw may not change. -/
theorem witness_InstructionsWriteOnlyWhatTheirRulesName :
    (∃ t, exec (.storeRegs 15) (fresh.setIndex 0xFF0) = .next t) ∧ (∃ t, exec (.ldB 0) (fresh.setIndex 0xFFD) = .next t) ∧
    (∃ t, exec (.call 0xABC) (fresh.setSp 15) = .next t) ∧ (∃ t, exec (.loadRegs 15) fresh = .next t) ∧
    (∃ t, exec (.rnd 0 0xFF) fresh = .next t) ∧ (∃ t, exec (.drw 0 0 1) fresh = .next t) ∧
    InFrame fresh 63 31 ∧ ¬MayChangeCell (.drw 0 0 1) fresh 63 31 := by
  refine ⟨⟨_, rfl⟩, ⟨_, rfl⟩, ⟨_, rfl⟩, ⟨_, rfl⟩, ⟨_, rfl⟩, ⟨_, rfl⟩, ⟨by decide, by decide⟩, ?_⟩
  rintro ⟨r, -, c, hc, -, hx, -⟩
  have : 63 = 0 + c := hx
  omega

theorem witness_HandlersEndAsThePcTableSays : ∃ t, exec (.ldVxK 15) fresh = .next t := ⟨_, rfl⟩

/-- Quirk sets that differ everywhere but in VfReset. -/
theorem witness_QuirksActOnTheirInstructionsOnly :
    SameForQuirks (.orReg 15 1) { noQuirks with vfReset := true } (Quirks.mk true true true true true true) := rfl

theorem witness_CallPushesItsOwnAddress :
    fresh.sp.val = (0 : Fin 16).val ∧ (fresh.setSp 15).sp.val = (15 : Fin 16).val ∧ (fresh.setSp 16).sp.val = 16 := by
  decide

theorem witness_ReturnGoesPastThePoppedCall :
    (fresh.setSp 1).sp.val = (0 : Fin 16).val + 1 ∧ (fresh.setSp 16).sp.val = (15 : Fin 16).val + 1 ∧
    fresh.sp.val = 0 := by decide

theorem witness_ReturnAfterCallContinuesAfterTheCall :
    ∃ t, exec (.call 0xABC) (fresh.setSp 15) = .next t ∧ t.sp = t.sp ∧ t.stack = t.stack := ⟨_, rfl, rfl, rfl⟩

theorem witness_OffsetJumpAddsTheQuirksRegister :
    topNibbleIs 15 0xFFF = true ∧ fresh.cfg.quirks.jumpAddsRegisterX = false ∧
    (quirky { noQuirks with jumpAddsRegisterX := true }).cfg.quirks.jumpAddsRegisterX = true ∧
    (15 : Reg).val = (0xFFF : Addr12).toNat / 256 := by decide

theorem witness_ShiftsMoveTheBitShiftedOutToVF :
    (0x80 : Nat) = (if (fresh.setReg 2 0x80).cfg.quirks.shiftUsesSecondOperand then ((fresh.setReg 2 0x80).reg 1).toNat
      else ((fresh.setReg 2 0x80).reg 2).toNat) := by decide

/-- The last byte of memory, one past it, and no byte at all; a cell that is hit and a frame that is not. -/
theorem witness_DrawXorsTheSpriteAndReportsCollision :
    RangeInMemory (fresh.setIndex 0xFFF) 1 ∧ ¬RangeInMemory (fresh.setIndex 0xFFF) 2 ∧
    RangeInMemory (fresh.setIndex 0xFFFF) 0 ∧
    (InFrame (fresh.setFb [0]) 0 0 ∧ SpritePixelAt (fresh.setFb [0]) 0 0 1 0 0 ∧ (fresh.setFb [0]).cellAt 0 0 = true) ∧
    ¬∃ px py, InFrame fresh px py ∧ SpritePixelAt fresh 0 0 1 px py ∧ fresh.cellAt px py = true := by
  refine ⟨.inr (by decide), ?_, .inl rfl, ⟨⟨by decide, by decide⟩, ⟨0, by decide, 0, by decide, by decide, rfl, rfl⟩,
    by decide⟩, ?_⟩
  · unfold RangeInMemory
    decide
  · rintro ⟨px, py, -, -, h⟩
    cases h

theorem witness_DrawingTwiceRestoresTheFrame :
    (0 : Reg) ≠ VF ∧ (14 : Reg) ≠ VF ∧ (∃ t, exec (.drw 0 14 15) fresh = .next t) ∧
    ∀ px py, InFrame fresh px py → fresh.cellAt px py = false :=
  ⟨by decide, by decide, ⟨_, rfl⟩, fun _ _ _ => rfl⟩

theorem witness_KeySkipsTestTheKeyVxNames :
    ((fresh.setReg 0 15).reg 0).toNat = (15 : Reg).val ∧ 15 < ((fresh.setReg 0 16).reg 0).toNat := by decide

theorem witness_WaitForKeyTakesTheLowestKeyDown :
    ((down 15 fresh).key 15 = true ∧ ∀ j, j < 15 → (down 15 fresh).key j = false) ∧ (∀ k, fresh.key k = false) ∧
    (down 0 fresh).key 0 = true := by decide

theorem witness_BcdStoresThreeDigitsAtIndex :
    (fresh.setIndex 4093).index.toNat ≤ 4093 ∧ 4094 ≤ (fresh.setIndex 4094).index.toNat := by decide

theorem witness_BlockStoreWritesRegistersUpToX :
    (fresh.setIndex 0xFF0).index.toNat + (15 : Reg).val < 4096 ∧
    4096 ≤ (fresh.setIndex 0xFF1).index.toNat + (15 : Reg).val := by decide

theorem witness_BlockLoadReadsRegistersUpToX :
    (fresh.setIndex 0xFFF).index.toNat + (0 : Reg).val < 4096 ∧
    4096 ≤ (fresh.setIndex 0x1000).index.toNat + (0 : Reg).val := by decide

/-- The block store of V0 and V1 at `I = 202`, executed at 200. -/
theorem witness_AStoreIsSeenByTheNextFetch :
    ∃ t, exec (.storeRegs 1) (fresh.setIndex 0x202) = .next t ∧ t.pc.toNat = 0x202 + (0 : Reg).val ∧
      t.pc.toNat + 1 = 0x202 + (1 : Reg).val := ⟨_, rfl, rfl, rfl⟩

theorem witness_StepsNeverWriteTheHostsItems :
    (∃ t, step (fresh.setRunState .running) = .next t) ∧ ∃ t, step (at_ 0x6FFF fresh) = .next t := ⟨⟨_, rfl⟩, _, rfl⟩

end Sys2Proof.Tests
end

section
/-! PROOFS. The quirk flags act on the instructions R5 lists for them and on nothing else. An instruction that reads no
quirk commutes with an exchange of the quirk set by computation; one that reads a quirk does so through a shared
operation, for which Laws/Quirks.lean has the commutation. -/

namespace Sys2Proof.Machine

/-- An ending takes the exchange of the quirk set on from the state it is given. -/
theorem withQuirks_finish {s t : State} {q : Quirks} (h : s = t.withQuirks q) :
    finish s = mapNext (fun u => u.withQuirks q) (finish t) := by
  rw [h]; rfl

/-! ### Control flow -/

theorem withQuirks_execRet (s : State) (q : Quirks) :
    execRet (s.withQuirks q) = mapNext (fun t => t.withQuirks q) (execRet s) := by
  unfold execRet
  by_cases hsp : 0 < s.sp.val
  · rw [dif_pos hsp, dif_pos (show 0 < (s.withQuirks q).sp.val from hsp)]
    rfl
  · rw [dif_neg hsp, dif_neg (show ¬0 < (s.withQuirks q).sp.val from hsp)]
    rfl

theorem withQuirks_execCall (s : State) (q : Quirks) (nnn : Addr12) :
    execCall nnn (s.withQuirks q) = mapNext (fun t => t.withQuirks q) (execCall nnn s) := by
  unfold execCall
  by_cases hsp : s.sp.val < 16
  · rw [dif_pos hsp, dif_pos (show (s.withQuirks q).sp.val < 16 from hsp)]
    rfl
  · rw [dif_neg hsp, dif_neg (show ¬(s.withQuirks q).sp.val < 16 from hsp)]
    rfl

theorem withQuirks_execJpV0 (s : State) (q : Quirks) (x : Reg) (nnn : Addr12)
    (h : s.cfg.quirks.jumpAddsRegisterX = q.jumpAddsRegisterX) :
    execJpV0 x nnn (s.withQuirks q) = mapNext (fun t => t.withQuirks q) (execJpV0 x nnn s) := by
  unfold execJpV0
  rw [withQuirks_jumpRegister s q x h]
  rfl

/-! ### Shifts -/

theorem withQuirks_execShr (s : State) (q : Quirks) (x y : Reg)
    (h : s.cfg.quirks.shiftUsesSecondOperand = q.shiftUsesSecondOperand) :
    execShr x y (s.withQuirks q) = mapNext (fun t => t.withQuirks q) (execShr x y s) := by
  unfold execShr
  rw [withQuirks_shiftSource s q x y h]
  exact withQuirks_finish (withQuirks_setResultAndFlag ..)

theorem withQuirks_execShl (s : State) (q : Quirks) (x y : Reg)
    (h : s.cfg.quirks.shiftUsesSecondOperand = q.shiftUsesSecondOperand) :
    execShl x y (s.withQuirks q) = mapNext (fun t => t.withQuirks q) (execShl x y s) := by
  unfold execShl
  rw [withQuirks_shiftSource s q x y h]
  exact withQuirks_finish (withQuirks_setResultAndFlag ..)

/-! ### Display, keypad and block transfers -/

theorem withQuirks_execDrw (s : State) (q : Quirks) (x y : Reg) (n : Fin 16)
    (h : s.cfg.quirks.wrapSprites = q.wrapSprites) :
    execDrw x y n (s.withQuirks q) = mapNext (fun t => t.withQuirks q) (execDrw x y n s) := by
  unfold execDrw
  rw [withQuirks_drawnCells s q x y n h]
  exact withQuirks_withRange s q n.val rfl

theorem withQuirks_execSkp (s : State) (q : Quirks) (x : Reg) :
    execSkp x (s.withQuirks q) = mapNext (fun t => t.withQuirks q) (execSkp x s) :=
  withQuirks_withKey s q x (fun down => skipIf down (s.withQuirks q)) (fun down => skipIf down s) fun _ => rfl

theorem withQuirks_execSknp (s : State) (q : Quirks) (x : Reg) :
    execSknp x (s.withQuirks q) = mapNext (fun t => t.withQuirks q) (execSknp x s) :=
  withQuirks_withKey s q x (fun down => skipIf (!down) (s.withQuirks q)) (fun down => skipIf (!down) s) fun _ => rfl

theorem withQuirks_execLdVxK (s : State) (q : Quirks) (x : Reg) :
    execLdVxK x (s.withQuirks q) = mapNext (fun t => t.withQuirks q) (execLdVxK x s) := by
  have hk : firstKeyDown (s.withQuirks q) = firstKeyDown s := rfl
  unfold execLdVxK
  rw [hk]
  cases firstKeyDown s with
  | none => rfl
  | some k => rfl

theorem withQuirks_execStoreRegs (s : State) (q : Quirks) (x : Reg)
    (h : s.cfg.quirks.loadStoreIncrementIndex = q.loadStoreIncrementIndex) :
    execStoreRegs x (s.withQuirks q) = mapNext (fun t => t.withQuirks q) (execStoreRegs x s) :=
  withQuirks_withRange s q _ <| withQuirks_finish <|
    withQuirks_bumpIndex (s.memWriteBytes s.index.toNat (regsUpTo x s)) q x h

theorem withQuirks_execLoadRegs (s : State) (q : Quirks) (x : Reg)
    (h : s.cfg.quirks.loadStoreIncrementIndex = q.loadStoreIncrementIndex) :
    execLoadRegs x (s.withQuirks q) = mapNext (fun t => t.withQuirks q) (execLoadRegs x s) :=
  withQuirks_withRange s q _ <| withQuirks_finish <| withQuirks_bumpIndex (s.loadRegsUpTo x) q x h

/-! ### Every instruction -/

/-- Settles O29, one instruction of R66 at a time: the hypothesis is the agreement on the flag that the instruction's
shared operation reads, and the instructions of the first arm read none. -/
theorem quirksActOnTheirInstructionsOnly : Obligations.QuirksActOnTheirInstructionsOnly := by
  intro i s q h
  cases i with
  | cls | jp | seImm | sneImm | seReg | sneReg | ldImm | addImm | ldReg | ldI | rnd | ldVxDT | ldDTVx | ldSTVx | addI
  | ldF => rfl
  | ret => exact withQuirks_execRet s q
  | call nnn => exact withQuirks_execCall s q nnn
  | jpV0 x nnn => exact withQuirks_execJpV0 s q x nnn h
  | orReg | andReg | xorReg => exact withQuirks_finish (withQuirks_setLogicResult _ _ _ _ h)
  | addReg | sub | subn => exact withQuirks_finish (withQuirks_setResultAndFlag ..)
  | shr x y => exact withQuirks_execShr s q x y h
  | shl x y => exact withQuirks_execShl s q x y h
  | drw x y n => exact withQuirks_execDrw s q x y n h
  | skp x => exact withQuirks_execSkp s q x
  | sknp x => exact withQuirks_execSknp s q x
  | ldVxK x => exact withQuirks_execLdVxK s q x
  | ldB => exact withQuirks_withRange s q 3 rfl
  | storeRegs x => exact withQuirks_execStoreRegs s q x h
  | loadRegs x => exact withQuirks_execLoadRegs s q x h

end Sys2Proof.Machine
end

section
/-! PROOFS. What an instruction writes (R12 to R16, R20, R43): one rule for each operation on the state, then the
instructions of R66 by the operations they are made of. -/

namespace Sys2Proof.Machine

/-- Between `s` and `u`, only what the rule of `i` names is written. It is kept while the operations of a handler take
`s` on to its next state, and it says nothing of `pc`. Memory is compared as it is held, not only as it reads, so that
its canonical form can be carried over. -/
structure WritesOnly (i : Instr) (s u : State) : Prop where
  regs  : ∀ r, writesReg s.cfg.quirks i r = false → u.reg r = s.reg r
  index : writesIndex s.cfg.quirks i = false → u.index = s.index
  slots : writesSlots i = false → u.stack = s.stack
  slot  : ∀ k : Fin 16, k.val ≠ s.sp.val → u.stack[k] = s.stack[k]
  sp    : writesSp i = false → u.sp = s.sp
  dt    : writesDt i = false → u.dt = s.dt
  st    : writesSt i = false → u.st = s.st
  mem   : writesMem i = false → u.mem = s.mem
  bytes : MemUnchangedBut s.index.toNat (bytesStored i) s u
  fb    : writesFb i = false → u.fb = s.fb
  cells : ∀ px py, InFrame s px py → ¬MayChangeCell i s px py → u.cellAt px py = s.cellAt px py
  draws : u.draws = if drawsByte i then s.draws + 1 else s.draws
  host  : HostUnchanged s u

namespace WritesOnly

variable {i : Instr} {s u t : State}

/-! ### One rule for each operation -/

theorem setDraws (i : Instr) (s : State) :
    WritesOnly i s (s.setDraws (if drawsByte i then s.draws + 1 else s.draws)) where
  regs _ _ := rfl
  index _ := rfl
  slots _ := rfl
  slot _ _ := rfl
  sp _ := rfl
  dt _ := rfl
  st _ := rfl
  mem _ := rfl
  bytes _ _ := rfl
  fb _ := rfl
  cells _ _ _ _ := rfl
  draws := rfl
  host := ⟨rfl, rfl, rfl, rfl, rfl, rfl⟩

theorem unchanged (hd : drawsByte i = false) : WritesOnly i s s := by
  have h := setDraws i s
  rwa [hd] at h

theorem setPc (h : WritesOnly i s u) (p : Word) : WritesOnly i s (u.setPc p) := { h with }

/-- A register file that differs from the one before in registers that `i` may write. -/
theorem setRegs (h : WritesOnly i s u) {v : Vector Byte 16}
    (hv : ∀ r, writesReg s.cfg.quirks i r = false → (u.setRegs v).reg r = u.reg r) : WritesOnly i s (u.setRegs v) :=
  { h with regs := fun r hr => (hv r hr).trans (h.regs r hr) }

theorem setReg (h : WritesOnly i s u) {x : Reg} (hx : writesReg s.cfg.quirks i x = true) (v : Byte) :
    WritesOnly i s (u.setReg x v) :=
  h.setRegs fun r hr => reg_setReg_of_ne u v fun e => by simp [e, hx] at hr

theorem setFlag (h : WritesOnly i s u) (hf : writesReg s.cfg.quirks i VF = true) (c : Bool) :
    WritesOnly i s (u.setFlag c) := h.setReg hf _

theorem setResultAndFlag (h : WritesOnly i s u) {x : Reg} (hx : writesReg s.cfg.quirks i x = true)
    (hf : writesReg s.cfg.quirks i VF = true) (r : Byte) (c : Bool) : WritesOnly i s (u.setResultAndFlag x r c) := by
  unfold State.setResultAndFlag
  cases u.cfg.flagWriteOrder with
  | flagLast => exact (h.setReg hx r).setFlag hf c
  | resultLast => exact (h.setFlag hf c).setReg hx r

theorem setIndex (h : WritesOnly i s u) (hi : writesIndex s.cfg.quirks i = true) (v : Word) :
    WritesOnly i s (u.setIndex v) :=
  { h with index := fun hn => by simp [hi] at hn }

theorem bumpIndex (h : WritesOnly i s u) (hi : writesIndex s.cfg.quirks i = s.cfg.quirks.loadStoreIncrementIndex)
    (x : Reg) : WritesOnly i s (u.bumpIndex x) := by
  obtain ⟨hq, he⟩ | ⟨-, he⟩ := bumpIndex_cases u x
  · rw [he]
    exact h.setIndex (by rw [hi, ← h.host.1, hq]) _
  · rwa [he]

theorem setSp (h : WritesOnly i s u) (hi : writesSp i = true) (v : Fin 17) : WritesOnly i s (u.setSp v) :=
  { h with sp := fun hn => by simp [hi] at hn }

/-- Pushing to the slot that `SP` points at. -/
theorem setSlot (h : WritesOnly i s u) (hi : writesSlots i = true) (hs : s.sp.val < 16) (v : Word) :
    WritesOnly i s (u.setStack (u.stack.set s.sp.val v hs)) :=
  { h with
    slots := fun hn => by simp [hi] at hn
    slot := fun k hk => (Vector.getElem_set_ne hs k.isLt (Ne.symm hk)).trans (h.slot k hk) }

theorem setDt (h : WritesOnly i s u) (hi : writesDt i = true) (v : Byte) : WritesOnly i s (u.setDt v) :=
  { h with dt := fun hn => by simp [hi] at hn }

theorem setSt (h : WritesOnly i s u) (hi : writesSt i = true) (v : Byte) : WritesOnly i s (u.setSt v) :=
  { h with st := fun hn => by simp [hi] at hn }

theorem setFb (h : WritesOnly i s u) (hi : writesFb i = true) {f : Frame}
    (hf : ∀ px py, InFrame s px py → ¬MayChangeCell i s px py →
      Frame.lit f (cellIndex s.cfg px py) = s.cellAt px py) : WritesOnly i s (u.setFb f) :=
  { h with
    fb := fun hn => by simp [hi] at hn
    cells := fun px py hin hm => by
      rw [← hf px py hin hm, ← h.host.1]
      rfl }

theorem memWriteBytes (h : WritesOnly i s u) (hi : writesMem i = true) {bytes : List Byte}
    (hl : bytes.length = bytesStored i) : WritesOnly i s (u.memWriteBytes s.index.toNat bytes) :=
  { h with
    mem := fun hn => by simp [hi] at hn
    bytes := fun a ha => (memRead_memWriteBytes_outside u _ a bytes (hl ▸ ha)).trans (h.bytes a ha) }

theorem of_finish (h : finish u = .next t) (hu : WritesOnly i s u) : WritesOnly i s t := by
  cases h
  exact hu.setPc _

theorem of_jumpTo {p : Word} (h : jumpTo p u = .next t) (hu : WritesOnly i s u) : WritesOnly i s t := by
  cases h
  exact hu.setPc _

theorem of_skipIf {c : Bool} (h : skipIf c u = .next t) (hu : WritesOnly i s u) : WritesOnly i s t := by
  cases h
  exact hu.setPc _

end WritesOnly

/-! ### The instructions whose handlers branch -/

variable {s t : State}

theorem writesOnly_execRet (h : execRet s = .next t) : WritesOnly .ret s t := by
  unfold execRet at h
  split at h
  · cases h
    exact ((WritesOnly.unchanged rfl).setSp rfl _).setPc _
  · cases h

theorem writesOnly_execCall {nnn : Addr12} (h : execCall nnn s = .next t) : WritesOnly (.call nnn) s t := by
  unfold execCall at h
  split at h
  · next hs => exact .of_jumpTo h (((WritesOnly.unchanged rfl).setSlot rfl hs _).setSp rfl _)
  · cases h

theorem execSkp_next {x : Reg} (h : execSkp x s = .next t) : ∃ c, skipIf c s = .next t := by
  obtain ⟨k, -, h⟩ := withKey_next h
  exact ⟨_, h⟩

theorem execSknp_next {x : Reg} (h : execSknp x s = .next t) : ∃ c, skipIf c s = .next t := by
  obtain ⟨k, -, h⟩ := withKey_next h
  exact ⟨_, h⟩

theorem writesOnly_execLdVxK {x : Reg} (h : execLdVxK x s = .next t) : WritesOnly (.ldVxK x) s t := by
  unfold execLdVxK at h
  split at h
  · exact .of_finish h ((WritesOnly.unchanged rfl).setReg (by simp [writesReg]) _)
  · cases h
    exact .unchanged rfl

/-- OR, AND and XOR, each of which may write VF under VfReset (D8). -/
theorem writesOnly_setLogicResult {i : Instr} {x : Reg} (hd : drawsByte i = false)
    (hw : ∀ q r, writesReg q i r = (r == x || (q.vfReset && r == VF))) (r : Byte) :
    WritesOnly i s (s.setLogicResult x r) := by
  unfold State.setLogicResult
  split
  · next hq => exact (WritesOnly.unchanged hd).setResultAndFlag (by simp [hw]) (by simp [hw, hq]) r false
  · exact (WritesOnly.unchanged hd).setReg (by simp [hw]) r

/-- ADD, SUB, SUBN, SHR and SHL, each of which writes VF (R12). -/
theorem writesOnly_setResultAndFlag {i : Instr} {x : Reg} (hd : drawsByte i = false)
    (hw : ∀ q r, writesReg q i r = (r == x || r == VF)) (r : Byte) (c : Bool) :
    WritesOnly i s (s.setResultAndFlag x r c) :=
  (WritesOnly.unchanged hd).setResultAndFlag (by simp [hw]) (by simp [hw]) r c

theorem writesOnly_execRnd {x : Reg} {nn : Byte} (h : execRnd x nn s = .next t) : WritesOnly (.rnd x nn) s t :=
  .of_finish h ((WritesOnly.setDraws (.rnd x nn) s).setReg (by simp [writesReg]) _)

theorem writesOnly_execDrw {x y : Reg} {n : Fin 16} (h : execDrw x y n s = .next t) : WritesOnly (.drw x y n) s t := by
  obtain ⟨-, h⟩ := withRange_next h
  refine .of_finish h (((WritesOnly.unchanged rfl).setFb rfl fun px py hin hm => ?_).setFlag (by simp [writesReg]) _)
  rw [lit_plotAll_drawnCells, decide_eq_false fun hd => hm ((mem_drawnCells_iff_spritePixelAt s x y n px py hin).mp hd),
    Bool.xor_false]

theorem writesOnly_execLdB {x : Reg} (h : execLdB x s = .next t) : WritesOnly (.ldB x) s t := by
  obtain ⟨-, h⟩ := withRange_next h
  exact .of_finish h ((WritesOnly.unchanged rfl).memWriteBytes rfl rfl)

theorem writesOnly_execStoreRegs {x : Reg} (h : execStoreRegs x s = .next t) : WritesOnly (.storeRegs x) s t := by
  obtain ⟨-, h⟩ := withRange_next h
  exact .of_finish h (((WritesOnly.unchanged rfl).memWriteBytes rfl (length_regsUpTo x s)).bumpIndex rfl x)

theorem writesOnly_execLoadRegs {x : Reg} (h : execLoadRegs x s = .next t) : WritesOnly (.loadRegs x) s t := by
  obtain ⟨-, h⟩ := withRange_next h
  refine .of_finish h (((WritesOnly.unchanged rfl).setRegs fun r hr => ?_).bumpIndex rfl x)
  exact (reg_loadRegsUpTo s x r).trans (if_neg (of_decide_eq_false hr))

/-! ### Every instruction -/

theorem exec_writesOnly {i : Instr} (h : exec i s = .next t) : WritesOnly i s t := by
  cases i with
  | cls => exact .of_finish h ((WritesOnly.unchanged rfl).setFb rfl fun _ _ _ hm => absurd trivial hm)
  | ret => exact writesOnly_execRet h
  | call => exact writesOnly_execCall h
  | jp | jpV0 => exact .of_jumpTo h (.unchanged rfl)
  | seImm | sneImm | seReg | sneReg => exact .of_skipIf h (.unchanged rfl)
  | skp =>
    obtain ⟨c, h⟩ := execSkp_next h
    exact .of_skipIf h (.unchanged rfl)
  | sknp =>
    obtain ⟨c, h⟩ := execSknp_next h
    exact .of_skipIf h (.unchanged rfl)
  | ldImm x | addImm x | ldReg x | ldVxDT x =>
    exact .of_finish h ((WritesOnly.unchanged rfl).setReg (by simp [writesReg]) _)
  | orReg | andReg | xorReg => exact .of_finish h (writesOnly_setLogicResult rfl (fun _ _ => rfl) _)
  | addReg | sub | shr | subn | shl => exact .of_finish h (writesOnly_setResultAndFlag rfl (fun _ _ => rfl) _ _)
  | rnd => exact writesOnly_execRnd h
  | drw => exact writesOnly_execDrw h
  | ldVxK => exact writesOnly_execLdVxK h
  | ldDTVx => exact .of_finish h ((WritesOnly.unchanged rfl).setDt rfl _)
  | ldSTVx => exact .of_finish h ((WritesOnly.unchanged rfl).setSt rfl _)
  | ldI | addI | ldF => exact .of_finish h ((WritesOnly.unchanged rfl).setIndex rfl _)
  | ldB => exact writesOnly_execLdB h
  | storeRegs => exact writesOnly_execStoreRegs h
  | loadRegs => exact writesOnly_execLoadRegs h

/-- Memory held unchanged reads unchanged. -/
theorem memUnchanged_of_mem_eq (hc : t.cfg = s.cfg) (hm : t.mem = s.mem) : MemUnchanged s t := fun a => by
  unfold State.byteAt State.memRead
  rw [hc, hm]

/-- Settles O27: `WritesOnly` for every instruction, memory compared as it reads. -/
theorem instructionsWriteOnlyWhatTheirRulesName : Obligations.InstructionsWriteOnlyWhatTheirRulesName := by
  intro i s t h
  have w := exec_writesOnly h
  exact ⟨w.regs, w.index, w.slots, w.slot, w.sp, w.dt, w.st, fun hi => memUnchanged_of_mem_eq w.host.1 (w.mem hi),
    w.bytes, w.fb, w.cells, w.draws, w.host⟩

end Sys2Proof.Machine
end

section
/-! PROOFS. How a handler that completes leaves `pc`: the five endings of R13. -/

namespace Sys2Proof.Machine

variable {s t u : State}

theorem finish_pc (h : finish u = .next t) (hu : u.pc = s.pc) : t.pc = s.pc + 2 := by
  cases h
  exact congrArg (· + 2) hu

theorem skipIf_pc {c : Bool} (h : skipIf c s = .next t) : t.pc = s.pc + 2 ∨ t.pc = s.pc + 4 := by
  cases h
  cases c with
  | false => exact .inl rfl
  | true => exact .inr rfl

theorem jumpTo_pc {p : Word} (h : jumpTo p u = .next t) : t.pc = p := by
  cases h
  rfl

@[simp] theorem bumpIndex_pc (s : State) (x : Reg) : (s.bumpIndex x).pc = s.pc := by
  obtain ⟨-, he⟩ | ⟨-, he⟩ := bumpIndex_cases s x
  · rw [he, State.setIndex_pc]
  · rw [he]

theorem execRet_pc (h : execRet s = .next t) : PcEnding .ret s t := by
  unfold execRet at h
  split at h
  · cases h
    exact ⟨⟨s.sp.val - 1, by omega⟩, by simp; omega, rfl⟩
  · cases h

theorem execCall_pc {nnn : Addr12} (h : execCall nnn s = .next t) : PcEnding (.call nnn) s t := by
  unfold execCall at h
  split at h
  · exact (congrArg BitVec.toNat (jumpTo_pc h)).trans (zext12_toNat nnn)
  · cases h

theorem pcEnding_ldVxK {x : Reg} :
    PcEnding (.ldVxK x) s t ↔ if ∃ k, s.key k = true then t.pc = s.pc + 2 else t.pc = s.pc := Iff.rfl

theorem execLdVxK_pc {x : Reg} (h : execLdVxK x s = .next t) : PcEnding (.ldVxK x) s t := by
  unfold execLdVxK at h
  rw [pcEnding_ldVxK]
  cases hk : firstKeyDown s with
  | some k =>
    rw [hk] at h
    rw [if_pos ⟨k, ((firstKeyDown_eq_some_iff s k).mp hk).1⟩]
    exact finish_pc h rfl
  | none =>
    rw [hk] at h
    cases h
    have hup := (firstKeyDown_eq_none_iff s).mp hk
    rw [if_neg (by simp [hup])]

/-- The sum of JP V0 does not reach 16 bits. -/
theorem zext12_add_zext8_toNat (a : Addr12) (b : Byte) : (zext12 a + zext8 b).toNat = a.toNat + b.toNat := by
  have ha := a.isLt
  have hb := b.isLt
  rw [BitVec.toNat_add, zext12_toNat, zext8_toNat]
  omega

theorem exec_pcEnding {i : Instr} (h : exec i s = .next t) : PcEnding i s t := by
  cases i with
  | ret => exact execRet_pc h
  | jp nnn => exact (congrArg BitVec.toNat (jumpTo_pc h)).trans (zext12_toNat nnn)
  | call => exact execCall_pc h
  | jpV0 x nnn => exact ⟨jumpRegister x s, (congrArg BitVec.toNat (jumpTo_pc h)).trans (zext12_add_zext8_toNat ..)⟩
  | seImm | sneImm | seReg | sneReg => exact skipIf_pc h
  | skp =>
    obtain ⟨c, h⟩ := execSkp_next h
    exact skipIf_pc h
  | sknp =>
    obtain ⟨c, h⟩ := execSknp_next h
    exact skipIf_pc h
  | ldVxK => exact execLdVxK_pc h
  | orReg | andReg | xorReg =>
    cases h
    exact setLogicResult_advance_pc ..
  | addReg | sub | shr | subn | shl =>
    cases h
    exact setResultAndFlag_advance_pc ..
  | cls | ldImm | addImm | ldReg | ldI | rnd | ldVxDT | ldDTVx | ldSTVx | addI | ldF => exact finish_pc h rfl
  | drw | ldB =>
    obtain ⟨-, h⟩ := withRange_next h
    exact finish_pc h rfl
  | storeRegs | loadRegs =>
    obtain ⟨-, h⟩ := withRange_next h
    exact finish_pc h (bumpIndex_pc ..)

/-- Settles O28: each handler ends in the ending its row of R13 gives it. -/
theorem handlersEndAsThePcTableSays : Obligations.HandlersEndAsThePcTableSays := fun _ _ _ => exec_pcEnding

end Sys2Proof.Machine
end

section
/-! PROOFS. The invariant of R26: construction has it, and an instruction, the Frame Driver around it and every host
operation keep it. -/

namespace Sys2Proof.Machine

variable {s t : State}

/-! ### An instruction -/

/-- From an address that the fetch accepts, the endings of R13 lead no further than JP V0 at its largest, 0xFFF + 0xFF
(R26). -/
theorem PcEnding.le {i : Instr} (h : PcEnding i s t) (hpc : s.pc.toNat ≤ 4094)
    (hstack : ∀ k : Fin 16, s.stack[k].toNat ≤ 4094) : t.pc.toNat ≤ 0x10FE := by
  have add2 : ∀ a : Word, a.toNat ≤ 4094 → t.pc = a + 2 → t.pc.toNat ≤ 0x10FE := fun a ha he => by
    rw [he]; bv_omega
  have skip : t.pc = s.pc + 2 ∨ t.pc = s.pc + 4 → t.pc.toNat ≤ 0x10FE := fun hs => by
    rcases hs with he | he
    · exact add2 _ hpc he
    · rw [he]; bv_omega
  have jump : ∀ a : Addr12, t.pc.toNat = a.toNat → t.pc.toNat ≤ 0x10FE := fun a he => by
    have := a.isLt; omega
  cases i with
  | seImm | sneImm | seReg | sneReg | skp | sknp => exact skip h
  | jp nnn | call nnn => exact jump nnn h
  | jpV0 x nnn =>
    obtain ⟨r, he⟩ := h
    have := nnn.isLt
    have := (s.reg r).isLt
    omega
  | ret =>
    obtain ⟨k, -, he⟩ := h
    exact add2 _ (hstack k) he
  | ldVxK =>
    by_cases hk : ∃ k, s.key k = true
    · rw [pcEnding_ldVxK, if_pos hk] at h
      exact add2 _ hpc h
    · rw [pcEnding_ldVxK, if_neg hk] at h
      rw [h]
      omega
  | _ => exact add2 _ hpc h

/-- LD B and LD [I] store inside memory; no other instruction touches the list of cells. -/
theorem exec_mem_wf {i : Instr} (h : exec i s = .next t) (hm : Memory.wf s.cfg.font s.mem) :
    Memory.wf s.cfg.font t.mem := by
  cases i with
  | ldB =>
    obtain ⟨hle, he⟩ := execLdB_mem h
    rw [he]
    exact Memory.writeBytes_wf _ _ _ _ hm hle
  | storeRegs =>
    obtain ⟨hle, he⟩ := execStoreRegs_mem h
    rw [he]
    exact Memory.writeBytes_wf _ _ _ _ hm hle
  | _ => rwa [(exec_writesOnly h).mem rfl]

/-- CLS empties the frame and DRW toggles cells inside it; no other instruction touches it. -/
theorem exec_fb_wf {i : Instr} (h : exec i s = .next t) (hf : Frame.wf s.cfg s.fb) : Frame.wf s.cfg t.fb := by
  cases i with
  | cls =>
    cases h
    exact ⟨List.Pairwise.nil, fun _ hi => nomatch hi⟩
  | drw x y n =>
    obtain ⟨-, h⟩ := withRange_next h
    cases h
    exact plotAll_drawnCells_wf s x y n hf
  | _ => rwa [(exec_writesOnly h).fb rfl]

theorem execCall_stack {nnn : Addr12} (h : execCall nnn s = .next t) :
    ∃ hs : s.sp.val < 16, t.stack = s.stack.set s.sp.val s.pc hs := by
  unfold execCall at h
  split at h
  · next hs =>
    cases h
    exact ⟨hs, rfl⟩
  · cases h

/-- CALL pushes the address it was fetched from; no other instruction writes a slot. -/
theorem exec_stack_le {i : Instr} (h : exec i s = .next t) (hpc : s.pc.toNat ≤ 4094)
    (hs : ∀ k : Fin 16, s.stack[k].toNat ≤ 4094) (k : Fin 16) : t.stack[k].toNat ≤ 4094 := by
  cases i with
  | call =>
    obtain ⟨hsp, he⟩ := execCall_stack h
    by_cases hk : k.val = s.sp.val
    · simpa [he, hk] using hpc
    · rw [(exec_writesOnly h).slot k hk]
      exact hs k
  | _ => exact (exec_writesOnly h).slots rfl ▸ hs k

theorem exec_keeps_inv {i : Instr} (h : exec i s = .next t) (hs : s.Inv) (hpc : s.pc.toNat ≤ 4094) : t.Inv := by
  obtain ⟨hcfg, -, hsize, -, hcount, hrom⟩ := (exec_writesOnly h).host
  exact ⟨hcfg ▸ exec_mem_wf h hs.mem, hcfg ▸ exec_fb_wf h hs.fb, (exec_pcEnding h).le hpc hs.stack,
    exec_stack_le h hpc hs.stack, hcfg ▸ hcount ▸ hs.frame, hsize ▸ hrom ▸ hs.rom⟩

/-! ### The step -/

theorem fetch_ok_le {w : Word} (h : fetch s = .ok w) : s.pc.toNat ≤ 4094 := by
  by_contra hpc
  rw [fetch_outside (by omega)] at h
  cases h

theorem coreStep_keeps_inv (h : coreStep s = .next t) (hs : s.Inv) : t.Inv := by
  obtain ⟨w, i, hw, -, h⟩ := coreStep_cases h
  exact exec_keeps_inv h hs (fetch_ok_le hw)

theorem countStep_keeps_inv (hs : s.Inv) : s.countStep.Inv where
  mem := by simpa using hs.mem
  fb := by simpa using hs.fb
  pc := by simpa using hs.pc
  stack := by simpa using hs.stack
  frame := by simpa using countStep_frameStep_lt s (Nat.one_le_of_lt hs.frame)
  rom := by simpa using hs.rom

/-- A fault is stepped over only below the end of the program, so `pc` stays far below 0x10FE. -/
theorem skipFault_keeps_inv (hs : s.Inv) (hp : pastEnd s = false) : s.skipFault.Inv := by
  have hlt : s.pc.toNat < programStart + s.programSize.val := Nat.lt_of_not_le (of_decide_eq_false hp)
  unfold programStart at hlt
  have hsize := s.programSize.isLt
  have hpc : (s.pc + 2).toNat ≤ 0x10FE := by bv_omega
  exact ⟨hs.mem, hs.fb, hpc, hs.stack, hs.frame, hs.rom⟩

/-- Settles O24, by what a step can do: finish the run, complete an instruction, or step over a fault. -/
theorem everyStepKeepsTheInvariant : Obligations.EveryStepKeepsTheInvariant := by
  intro s t hs h
  obtain ⟨-, ⟨-, rfl⟩ | ⟨-, u, hu, rfl⟩ | ⟨hp, -, -, -, rfl⟩⟩ := step_cases h
  · exact hs.congr rfl rfl rfl rfl rfl rfl rfl rfl
  · exact countStep_keeps_inv (coreStep_keeps_inv hu hs)
  · exact countStep_keeps_inv (skipFault_keeps_inv hs hp)

/-! ### The host's operations -/

/-- A load that answers has stored its image on a machine with none. -/
theorem load_next {bytes : List Byte} (h : load bytes s = .next t) : ∃ hl, t = s.loadImage bytes hl := by
  unfold load at h
  split at h
  · next hl =>
    split at h
    · cases h
      exact ⟨hl, rfl⟩
    · cases h
  · cases h

/-- A reset that answers has loaded the kept image on a machine constructed anew. -/
theorem reset_next (h : reset s = .next t) :
    ∃ bytes u, load bytes (State.construct s.cfg) = .next u ∧ t = (u.setRunState .running).setDraws s.draws := by
  unfold reset at h
  split at h
  · cases h
  · next bytes _ =>
    split at h
    · next u hu =>
      cases h
      exact ⟨bytes, u, hu, rfl⟩
    · cases h
    · cases h

theorem writeRunState_next {r : RunState} (h : writeRunState r s = .next t) : t = s.setRunState r := by
  unfold writeRunState at h
  split at h
  · cases h
    rfl
  · cases h

theorem keyDown_next {k : Nat} (h : keyDown k s = .next t) : ∃ v, t = s.setKeys v := by
  unfold keyDown at h
  split at h
  · split at h
    · cases h
      exact ⟨_, rfl⟩
    · cases h
  · cases h

theorem keysClear_next (h : keysClear s = .next t) : t = s.keysClear := by
  unfold keysClear at h
  split at h
  · cases h
    rfl
  · cases h

theorem hostTick_next (h : hostTick s = .next t) : t = s.frameTick := by
  unfold hostTick at h
  split at h
  · cases h
    rfl
  · cases h

theorem load_keeps_inv {bytes : List Byte} (h : load bytes s = .next t) (hs : s.Inv) : t.Inv := by
  obtain ⟨hl, rfl⟩ := load_next h
  exact inv_loadImage bytes hl hs

/-- The count below `tickRate` is what makes the configuration one that construction accepts again. -/
theorem reset_keeps_inv (h : reset s = .next t) (hs : s.Inv) : t.Inv := by
  obtain ⟨bytes, u, hu, rfl⟩ := reset_next h
  have hu := load_keeps_inv hu (inv_construct s.cfg (Nat.one_le_of_lt hs.frame))
  exact hu.congr rfl rfl rfl rfl rfl rfl rfl rfl

theorem hostOp_keeps_inv {op : HostOp} (h : hostOp op s = .next t) (hs : s.Inv) : t.Inv := by
  cases op with
  | load => exact load_keeps_inv h hs
  | reset => exact reset_keeps_inv h hs
  | writeRunState =>
    obtain rfl := writeRunState_next h
    exact hs.congr rfl rfl rfl rfl rfl rfl rfl rfl
  | frameTick =>
    obtain rfl := hostTick_next h
    exact hs.congr rfl rfl rfl rfl rfl rfl rfl rfl
  | keyDown =>
    obtain ⟨v, rfl⟩ := keyDown_next h
    exact hs.congr rfl rfl rfl rfl rfl rfl rfl rfl
  | keysClear =>
    obtain rfl := keysClear_next h
    exact hs.congr rfl rfl rfl rfl rfl rfl rfl rfl

/-- Settles O56: a step by O24, a host operation by the rule for it. -/
theorem everyEventKeepsTheInvariant : Obligations.EveryEventKeepsTheInvariant := by
  intro s t e hs h
  cases e with
  | step => exact everyStepKeepsTheInvariant s t hs h
  | host op => exact hostOp_keeps_inv h hs

/-! ### From construction on -/

theorem construct_next {cfg : Config} (h : construct cfg = .next s) :
    configWf cfg = true ∧ s = State.construct cfg := by
  unfold construct at h
  split at h
  · next hc =>
    cases h
    exact ⟨hc, rfl⟩
  · cases h

theorem configWf_tickRate {cfg : Config} (h : configWf cfg = true) : 1 ≤ cfg.tickRate :=
  of_decide_eq_true (Bool.and_eq_true_iff.mp h).1

/-- Settles O25, by induction on how the state is reached, with O56 for an event. -/
theorem everyReachableStateHasTheInvariant : Obligations.EveryReachableStateHasTheInvariant := by
  intro s hs
  induction hs with
  | construct cfg s h =>
    obtain ⟨hc, rfl⟩ := construct_next h
    exact inv_construct cfg (configWf_tickRate hc)
  | event s t e _ h ih => exact everyEventKeepsTheInvariant s t e ih h

/-- Settles O23: the default configuration is accepted, and its tick rate is positive. -/
theorem theResetStateHasTheInvariant : Obligations.TheResetStateHasTheInvariant :=
  ⟨rfl, inv_construct defaultConfig (by decide)⟩

end Sys2Proof.Machine
end

section
/-! PROOFS. What a constructed machine holds (R27, R200), and what a step leaves to the host (R21 to R25). -/

namespace Sys2Proof.Machine

theorem constructedByte_glyph (font : Font) (g : Fin 16) (j : Fin 5) :
    constructedByte font (5 * g.val + j.val) = font[g][j] := by
  have hg : (5 * g.val + j.val) / 5 = g.val := by omega
  have hj : (5 * g.val + j.val) % 5 = j.val := by omega
  unfold constructedByte
  rw [dif_pos (by omega)]
  simp only [hg, hj, Fin.getElem_fin]

theorem constructedByte_above_font (font : Font) {a : Nat} (h : 0x050 ≤ a) : constructedByte font a = 0 :=
  dif_neg (by omega)

/-- The table of R27: every item holds its value by construction, and memory lists nothing. -/
theorem freshWith_construct (cfg : Config) : FreshWith cfg [] .off (State.construct cfg) where
  config := rfl
  regs r := by simp [State.reg, State.construct]
  pc := rfl
  index := rfl
  sp := rfl
  stack k := by simp [State.construct]
  dt := rfl
  st := rfl
  font g j := constructedByte_glyph cfg.font g j
  program _ h := nomatch h
  zeros _ ha _ _ := constructedByte_above_font cfg.font ha
  keys k := by simp [State.key, State.construct]
  blank _ _ hin := if_pos hin
  programSize := rfl
  runState := rfl
  frameStep := rfl

/-- Settles O9: `construct` accepts the configuration, and the machine it gives is as the table of R27. -/
theorem constructionGivesTheResetTable : Obligations.ConstructionGivesTheResetTable := fun cfg h =>
  ⟨State.construct cfg, if_pos h, freshWith_construct cfg⟩

theorem coreStep_hostUnchanged {s t : State} (h : coreStep s = .next t) : HostUnchanged s t := by
  obtain ⟨w, i, -, -, h⟩ := coreStep_cases h
  exact (exec_writesOnly h).host

/-- Settles O55, by what a step can do: only the end of the program writes `runState`. -/
theorem stepsNeverWriteTheHostsItems : Obligations.StepsNeverWriteTheHostsItems := by
  intro s t h
  obtain ⟨hrun, ⟨-, rfl⟩ | ⟨-, u, hu, rfl⟩ | ⟨-, -, -, -, rfl⟩⟩ := step_cases h
  · exact ⟨rfl, rfl, rfl, hrun, .inr rfl⟩
  · obtain ⟨hcfg, -, hsize, hstate, -, hrom⟩ := coreStep_hostUnchanged hu
    simp [hcfg, hsize, hrom, hstate, hrun]
  · simp [hrun]

end Sys2Proof.Machine
end

section
/-! PROOFS. The fetch (R44, R47) and dispatch (R60): what makes a Step raise before a handler runs, and what a fetch
reads after a block store over the next instruction (R52). -/

namespace Sys2Proof.Machine

variable {s t : State}

/-! ### Raising before the handler -/

/-- At 4095 and beyond the second byte of the word lies outside memory (R47). -/
theorem coreStep_outside (h : 4095 ≤ s.pc.toNat) : coreStep s = .fault (.invalidAddress s.pc.toNat) := by
  unfold coreStep
  rw [fetch_outside h]
  rfl

/-- Inside memory the Step is the dispatch of the word at `pc` (R60). -/
theorem coreStep_inside (h : s.pc.toNat ≤ 4094) : coreStep s = runWord (wordAtPc s) s := by
  unfold coreStep
  rw [fetch_inside h]
  rfl

theorem runWord_illegal {w : Word} {e : DecodeError} (h : decode w = .error e) :
    runWord w s = .fault (.invalidOpcode w) := by
  unfold runWord
  rw [h]
  rfl

/-- FAULT_POLICY = halt hands on whatever the core's Step raises (R186). -/
theorem step_fault_of_halt {f : Fault} (hs : StepEnabled s) (hp : s.cfg.faultPolicy = .halt)
    (h : coreStep s = .fault f) : step s = .fault f := by
  obtain ⟨hrun, hpc⟩ := hs
  rw [step_enabled hrun hpc, h]
  unfold afterStep
  rw [hp]

/-- Settles O14: the core's Step raises at the fetch, or at dispatch, and the policy hands the fault on. -/
theorem fetchAndDispatchRaiseBeforeTheHandler : Obligations.FetchAndDispatchRaiseBeforeTheHandler := by
  intro s hs hp
  constructor
  · intro hpc
    exact step_fault_of_halt hs hp (coreStep_outside hpc)
  · intro hpc hw
    exact step_fault_of_halt hs hp ((coreStep_inside hpc).trans (runWord_illegal hw))

/-! ### Fetching what a block store left -/

/-- A block store that completes has all its bytes inside memory, and each reads back as the register stored there
(R165). -/
theorem execStoreRegs_reads {x r : Reg} (h : execStoreRegs x s = .next t) (hr : r ≤ x) :
    s.index.toNat + r.val < 4096 ∧ t.memRead (s.index.toNat + r.val) = s.reg r := by
  obtain ⟨hle, hmem⟩ := execStoreRegs_mem h
  have hcfg : t.cfg = s.cfg := (writesOnly_execStoreRegs h).host.1
  have hlt : r.val < (regsUpTo x s).length := by
    rw [length_regsUpTo]
    exact Nat.lt_succ_of_le hr
  refine ⟨by unfold memSize at hle; omega, ?_⟩
  unfold State.memRead
  rw [hcfg, hmem, Memory.read_writeBytes_inside _ _ _ _ _ hlt, getElem_regsUpTo]

/-- Settles O54: the fetch reads the two bytes at `pc`, which are the registers that the block store left there. -/
theorem aStoreIsSeenByTheNextFetch : Obligations.AStoreIsSeenByTheNextFetch := by
  intro s t x hi lo h hhi hlo hpc hpc1
  obtain ⟨-, hhigh⟩ := execStoreRegs_reads h hhi
  obtain ⟨hlt, hlow⟩ := execStoreRegs_reads h hlo
  rw [fetch_inside (by omega), hpc1, hpc, hhigh, hlow]

end Sys2Proof.Machine
end

section
/-! PROOFS. The fields of a word (R62) and dispatch (R65 to R67): which row a word selects, and which words select
none. -/

namespace Sys2Proof

/-! ### The fields as numbers -/

/-- The places of R62, as divisions and remainders of the word. -/
theorem cut_toNat (w : Word) : (cut w).cls.toNat = w.toNat / 4096 ∧ (cut w).x.toNat = w.toNat / 256 % 16 ∧
    (cut w).y.toNat = w.toNat / 16 % 16 ∧ (cut w).n.toNat = w.toNat % 16 ∧ (cut w).nn.toNat = w.toNat % 256 ∧
    (cut w).nnn.toNat = w.toNat % 4096 := by
  simp only [cut, BitVec.extractLsb'_toNat, Nat.shiftRight_eq_div_pow, Nat.reducePow, Nat.div_one, and_true]
  omega

/-- Settles O1: the fields as numbers, and the word as its four nibbles. -/
theorem fieldsAreCutAsTheSpecPlacesThem : Obligations.FieldsAreCutAsTheSpecPlacesThem := by
  intro w
  obtain ⟨hcls, hx, hy, hn, hnn, hnnn⟩ := cut_toNat w
  exact ⟨hcls, hx, hy, hn, hnn, hnnn, (nibbles_of_word w).symm⟩

/-! ### No word matches two rows -/

/-- Two nibbles of patterns that are fixed at different values. -/
def nibblesClash : Option Nibble → Option Nibble → Bool
  | some j, some k => j != k
  | _, _ => false

/-- Some nibble of the two patterns is fixed at different values. -/
def OpRow.clash (r p : OpRow) : Bool :=
  r.cls != p.cls || nibblesClash r.x p.x || nibblesClash r.y p.y || nibblesClash r.n p.n

theorem row_eq_or_clash : ∀ r ∈ opcodeMap, ∀ p ∈ opcodeMap, r.row = p.row ∨ r.clash p = true := by decide

theorem opcodeMap_row_nodup : (opcodeMap.map OpRow.row).Nodup := by decide

theorem nibblesClash_eq_false {p q : Option Nibble} {b : Nibble} (hp : nibbleMatches p b = true)
    (hq : nibbleMatches q b = true) : nibblesClash p q = false := by
  cases p with
  | none => rfl
  | some j =>
    cases q with
    | none => rfl
    | some k => simp_all [nibbleMatches, nibblesClash]

theorem OpRow.matchesFields_iff {r : OpRow} {f : Fields} : r.matchesFields f = true ↔
    f.cls = r.cls ∧ nibbleMatches r.x f.x = true ∧ nibbleMatches r.y f.y = true ∧ nibbleMatches r.n f.n = true := by
  simp [OpRow.matchesFields, and_assoc]

theorem OpRow.clash_eq_false {r p : OpRow} {f : Fields} (hr : r.matchesFields f = true)
    (hp : p.matchesFields f = true) : r.clash p = false := by
  obtain ⟨hrc, hrx, hry, hrn⟩ := matchesFields_iff.1 hr
  obtain ⟨hpc, hpx, hpy, hpn⟩ := matchesFields_iff.1 hp
  simp [OpRow.clash, nibblesClash_eq_false hrx hpx, nibblesClash_eq_false hry hpy, nibblesClash_eq_false hrn hpn,
    ← hrc, hpc]

theorem OpRow.eq_of_row_eq {r p : OpRow} (hr : r ∈ opcodeMap) (hp : p ∈ opcodeMap) (h : r.row = p.row) : r = p :=
  List.inj_on_of_nodup_map opcodeMap_row_nodup hr hp h

theorem OpRow.eq_of_matches {r p : OpRow} {f : Fields} (hr : r ∈ opcodeMap) (hp : p ∈ opcodeMap)
    (hrf : r.matchesFields f = true) (hpf : p.matchesFields f = true) : r = p := by
  rcases row_eq_or_clash r hr p hp with h | h
  · exact eq_of_row_eq hr hp h
  · rw [clash_eq_false hrf hpf] at h
    cases h

/-! ### Dispatch and decode -/

/-- As no word matches two rows, dispatch finds a row exactly when that row matches, wherever it stands in the map. -/
theorem dispatch_eq_some_iff {r : OpRow} {f : Fields} :
    dispatch f = some r ↔ r ∈ opcodeMap ∧ r.matchesFields f = true := by
  have sound : ∀ p, dispatch f = some p → p ∈ opcodeMap ∧ p.matchesFields f = true := fun p h =>
    ⟨List.mem_of_find?_eq_some h, List.find?_some (p := fun r : OpRow => r.matchesFields f) h⟩
  refine ⟨sound r, fun ⟨hr, hrf⟩ => ?_⟩
  cases hd : dispatch f with
  | none => exact absurd hrf (List.find?_eq_none.1 hd r hr)
  | some p =>
    obtain ⟨hp, hpf⟩ := sound p hd
    rw [OpRow.eq_of_matches hp hr hpf hrf]

theorem dispatch_eq_none_iff {f : Fields} : dispatch f = none ↔ ∀ r ∈ opcodeMap, r.matchesFields f = false := by
  simp [dispatch]

theorem decode_of_dispatch {w : Word} {r : OpRow} (h : dispatch (cut w) = some r) :
    decode w = .ok (r.build (cut w)) := by
  unfold decode
  rw [h]

theorem decode_of_dispatch_none {w : Word} (h : dispatch (cut w) = none) :
    decode w = .error (.invalidOpcode w) := by
  unfold decode
  rw [h]

/-- All that decode can answer: the instruction of a row that matches, or, where no row does, `InvalidOpcode`. -/
theorem decode_cases (w : Word) :
    (∃ r ∈ opcodeMap, r.matchesFields (cut w) = true ∧ decode w = .ok (r.build (cut w))) ∨
    ((∀ r ∈ opcodeMap, r.matchesFields (cut w) = false) ∧ decode w = .error (.invalidOpcode w)) := by
  cases hd : dispatch (cut w) with
  | none => exact .inr ⟨dispatch_eq_none_iff.1 hd, decode_of_dispatch_none hd⟩
  | some r =>
    obtain ⟨hr, hm⟩ := dispatch_eq_some_iff.1 hd
    exact .inl ⟨r, hr, hm, decode_of_dispatch hd⟩

theorem decode_eq_error_iff {w : Word} :
    decode w = .error (.invalidOpcode w) ↔ ∀ r ∈ opcodeMap, r.matchesFields (cut w) = false := by
  refine ⟨fun h => ?_, fun h => decode_of_dispatch_none (dispatch_eq_none_iff.2 h)⟩
  rcases decode_cases w with ⟨r, -, -, hok⟩ | ⟨hall, -⟩
  · rw [hok] at h
    cases h
  · exact hall

/-- Settles O3, by the two answers of dispatch and that no word matches two rows. -/
theorem dispatchIsTotalAndItsRowsAreDisjoint : Obligations.DispatchIsTotalAndItsRowsAreDisjoint := by
  intro w
  refine ⟨fun r hr hm => decode_of_dispatch (dispatch_eq_some_iff.2 ⟨hr, hm⟩), decode_eq_error_iff.2,
    fun r hr p hp hrm hpm => ?_⟩
  rw [OpRow.eq_of_matches hr hp hrm hpm]

/-! ### Match and mask -/

/-- The mask of one nibble: all ones where it is fixed. -/
def nibbleMask (p : Option Nibble) : Nibble := if p.isSome then 0xF else 0x0

/-- The row's mask in R66: ones in the fixed nibbles. -/
def OpRow.mask (r : OpRow) : Word := 0xF#4 ++ nibbleMask r.x ++ nibbleMask r.y ++ nibbleMask r.n

/-- The row's match in R66: the fixed nibbles, and zeros elsewhere. -/
def OpRow.fixedBits (r : OpRow) : Word := r.cls ++ r.x.getD 0x0 ++ r.y.getD 0x0 ++ r.n.getD 0x0

theorem append_eq_append_iff {v w : Nat} {a c : BitVec v} {b d : BitVec w} : a ++ b = c ++ d ↔ a = c ∧ b = d := by
  constructor
  · intro h
    have hhigh := congrArg (BitVec.extractLsb' w v) h
    have hlow := congrArg (BitVec.extractLsb' 0 w) h
    simp only [extract_high _ _ w v le_rfl, extract_low _ _ 0 w (Nat.zero_add w).le, Nat.sub_self,
      BitVec.extractLsb'_eq_self] at hhigh hlow
    exact ⟨hhigh, hlow⟩
  · rintro ⟨rfl, rfl⟩
    rfl

/-- Masking works nibble by nibble. -/
theorem nibbles_and_eq_iff {c x y n cm xm ym nm cv xv yv nv : Nibble} :
    (c ++ x ++ y ++ n) &&& (cm ++ xm ++ ym ++ nm) = cv ++ xv ++ yv ++ nv ↔
      c &&& cm = cv ∧ x &&& xm = xv ∧ y &&& ym = yv ∧ n &&& nm = nv := by
  simp only [BitVec.and_append, append_eq_append_iff, and_assoc]

theorem nibble_and_ones (b : Nibble) : b &&& 0xF#4 = b := BitVec.and_allOnes

theorem nibbleMatches_iff_and {p : Option Nibble} {b : Nibble} :
    nibbleMatches p b = true ↔ b &&& nibbleMask p = p.getD 0x0 := by
  cases p with
  | none => simp [nibbleMatches, nibbleMask]
  | some k => simp [nibbleMatches, nibbleMask, nibble_and_ones]

/-- R66: "a word w selects row r when w & mask_r = match_r". -/
theorem OpRow.matchesFields_iff_mask {r : OpRow} {w : Word} :
    r.matchesFields (cut w) = true ↔ w &&& r.mask = r.fixedBits := by
  conv => rhs; rw [← nibbles_of_word w]
  refine Iff.trans ?_ nibbles_and_eq_iff.symm
  rw [matchesFields_iff, nibble_and_ones, nibbleMatches_iff_and, nibbleMatches_iff_and, nibbleMatches_iff_and]

theorem dispatch_row_iff {r : OpRow} (hr : r ∈ opcodeMap) {f : Fields} :
    (dispatch f).map OpRow.row = some r.row ↔ r.matchesFields f = true := by
  rw [Option.map_eq_some_iff]
  constructor
  · rintro ⟨p, hd, hrow⟩
    obtain ⟨hp, hpf⟩ := dispatch_eq_some_iff.1 hd
    rwa [← OpRow.eq_of_row_eq hp hr hrow]
  · intro hm
    exact ⟨r, dispatch_eq_some_iff.2 ⟨hr, hm⟩, rfl⟩

/-- A row's number, match and mask, as the table of R66 lists them. -/
def OpRow.maskEntry (r : OpRow) : Nat × Nat × Nat := (r.row, r.fixedBits.toNat, r.mask.toNat)

/-- Settles O2: the listed numbers are the rows' own, and to match a row's nibbles is to pass its mask. -/
theorem rowsAreSelectedByMatchAndMask : Obligations.RowsAreSelectedByMatchAndMask := by
  intro w k m a h
  change (k, m, a) ∈ opcodeMap.map OpRow.maskEntry at h
  obtain ⟨r, hr, he⟩ := List.mem_map.1 h
  cases he
  rw [dispatch_row_iff hr, OpRow.matchesFields_iff_mask, BitVec.ofNat_toNat, BitVec.ofNat_toNat, BitVec.setWidth_eq,
    BitVec.setWidth_eq]

/-! ### The illegal words -/

/-- The rows of one class. -/
def rowsOfClass (c : Nat) : List OpRow := opcodeMap.filter (fun r => r.cls.toNat == c)

/-- The fixed nibbles of a pattern after its class stand in the word, as numbers. -/
def OpRow.OperandsMatch (r : OpRow) (w : Word) : Prop :=
  (∀ k ∈ r.x, w.toNat / 256 % 16 = k.toNat) ∧ (∀ k ∈ r.y, w.toNat / 16 % 16 = k.toNat) ∧
    ∀ k ∈ r.n, w.toNat % 16 = k.toNat

theorem nibbleMatches_iff_toNat {p : Option Nibble} {b : Nibble} :
    nibbleMatches p b = true ↔ ∀ k ∈ p, b.toNat = k.toNat := by
  cases p with
  | none => simp [nibbleMatches]
  | some k => simp [nibbleMatches, BitVec.toNat_inj]

theorem OpRow.matchesFields_iff_toNat {r : OpRow} {w : Word} :
    r.matchesFields (cut w) = true ↔ r.cls.toNat = w.toNat / 4096 ∧ r.OperandsMatch w := by
  obtain ⟨hcls, hx, hy, hn, -, -⟩ := cut_toNat w
  rw [matchesFields_iff, ← BitVec.toNat_inj, nibbleMatches_iff_toNat, nibbleMatches_iff_toNat, nibbleMatches_iff_toNat,
    hcls, hx, hy, hn, eq_comm (a := w.toNat / 4096), OperandsMatch]

/-- Only the rows of the word's own class can accept it. -/
theorem decode_eq_error_iff_class (w : Word) :
    decode w = .error (.invalidOpcode w) ↔ ∀ r ∈ rowsOfClass (w.toNat / 4096), ¬r.OperandsMatch w := by
  simp only [decode_eq_error_iff, rowsOfClass, ← Bool.not_eq_true, OpRow.matchesFields_iff_toNat, List.mem_filter,
    beq_iff_eq, and_imp, not_and]

/-- A byte is another one than that of the nibbles `a` and `b` if, where its high nibble is `a`, its low one is not
`b`. -/
theorem ne_byte_iff_nibbles {v a b : Nat} (hb : b < 16) :
    (v / 16 % 16 = a → ¬v % 16 = b) ↔ ¬v % 256 = 16 * a + b := by
  omega

/-- Settles O4, class by class: no row of the class accepts the word. -/
theorem illegalWordsAreTheListedOnes : Obligations.IllegalWordsAreTheListedOnes := by
  intro w
  rw [decode_eq_error_iff_class]
  have hlt : w.toNat / 4096 < 16 := by omega
  generalize hc : w.toNat / 4096 = c at hlt ⊢
  interval_cases c
  all_goals
    simp [rowsOfClass, opcodeMap, opcodeRowsLow, opcodeRowsMid, opcodeRowsHigh, OpRow.OperandsMatch,
      ne_byte_iff_nibbles]
  -- Left are class 0, where all three nibbles are fixed, and class 8, where R67 lists the nibbles that no row has.
  · omega
  · omega

end Sys2Proof
end

section
/-! PROOFS. The encoder and the decoder undo each other (R62, R63, R65, R66). -/

namespace Sys2Proof

/-! ### From an instruction to its word and back -/

theorem decode_of_cut {w : Word} {f : Fields} {i : Instr} (hw : cut w = f)
    (hf : (dispatch f).map (fun r => r.build f) = some i) : decode w = .ok i := by
  obtain ⟨r, hr, rfl⟩ := Option.map_eq_some_iff.1 hf
  subst hw
  exact decode_of_dispatch hr

/-- Where JP V0's two fields agree, `x` can be cut out of `nnn` (R108). -/
theorem regOf_topNibble {x : Reg} {nnn : Addr12} (h : topNibbleIs x nnn = true) :
    regOf (nnn.extractLsb' 8 4) = x := by
  have hx : x.val = nnn.toNat / 256 := beq_iff_eq.1 h
  apply Fin.ext
  change (nnn.extractLsb' 8 4).toNat = x.val
  rw [BitVec.extractLsb'_toNat, Nat.shiftRight_eq_div_pow]
  omega

/-- By the format of the word (R63): its fields are cut back out of it, and they select the instruction's row. -/
theorem decode_encode (i : Instr) (h : i.wf = true) : decode (encode i) = .ok i := by
  cases i with
  | cls | ret => rfl
  | jp nnn | call nnn | ldI nnn => exact decode_of_cut (cut_wordNNN _ nnn) rfl
  | jpV0 x nnn =>
    have hx : regOf (nnn.extractLsb' 8 4) = x := regOf_topNibble h
    exact decode_of_cut (cut_wordNNN _ nnn) (congrArg (fun r => some (Instr.jpV0 r nnn)) hx)
  | seImm x nn | sneImm x nn | ldImm x nn | addImm x nn | rnd x nn => exact decode_of_cut (cut_wordXNN _ x nn) rfl
  | seReg x y | ldReg x y | orReg x y | andReg x y | xorReg x y | addReg x y | sub x y | shr x y | subn x y | shl x y
  | sneReg x y | drw x y n => exact decode_of_cut (cut_wordXYN _ x y _) rfl
  | skp x | sknp x | ldVxDT x | ldVxK x | ldDTVx x | ldSTVx x | addI x | ldF x | ldB x | storeRegs x | loadRegs x =>
    exact decode_of_cut (cut_wordXNN _ x _) rfl

/-- Settles O5: the two bytes make the encoded word again, and decoding it gives the instruction. -/
theorem decodingAnEncodedInstructionGivesItBack : Obligations.DecodingAnEncodedInstructionGivesItBack := by
  intro i rest h
  unfold encodeBytes
  rw [decodeBytes_bytesOfWord, decode_encode i h]
  rfl

/-! ### From a word to its instruction and back -/

/-- A word of format NNN is its class and the nibbles of its address. -/
theorem wordNNN_nibbles (c : Nibble) (nnn : Addr12) :
    wordNNN c nnn = c ++ nnn.extractLsb' 8 4 ++ nnn.extractLsb' 4 4 ++ nnn.extractLsb' 0 4 := by
  simpa only [cut_wordNNN] using (nibbles_of_word (wordNNN c nnn)).symm

/-- A word of format XNN is its class, its register and the nibbles of its immediate. -/
theorem wordXNN_nibbles (c : Nibble) (x : Reg) (nn : Byte) :
    wordXNN c x nn = c ++ nibOf x ++ nn.extractLsb' 4 4 ++ nn.extractLsb' 0 4 := by
  simpa only [cut_wordXNN] using (nibbles_of_word (wordXNN c x nn)).symm

theorem extract_extract_low {v : Nat} (w : BitVec v) {i n m : Nat} (h : i + n ≤ m) :
    (w.extractLsb' 0 m).extractLsb' i n = w.extractLsb' i n := by
  apply BitVec.eq_of_getLsbD_eq
  intro j hj
  simp [hj, show i + j < m by omega]

/-- The nibbles of the two immediates of a word are its fields `x`, `y` and `n`: the fields of R62 overlap. -/
theorem cut_immediate_nibbles (w : Word) : (cut w).nnn.extractLsb' 8 4 = (cut w).x ∧
    (cut w).nnn.extractLsb' 4 4 = (cut w).y ∧ (cut w).nnn.extractLsb' 0 4 = (cut w).n ∧
    (cut w).nn.extractLsb' 4 4 = (cut w).y ∧ (cut w).nn.extractLsb' 0 4 = (cut w).n :=
  ⟨extract_extract_low w (by decide), extract_extract_low w (by decide), extract_extract_low w (by decide),
    extract_extract_low w (by decide), extract_extract_low w (by decide)⟩

/-- The word of a row's pattern, its operand nibbles taken from the fields `f`. -/
def OpRow.fill (r : OpRow) (f : Fields) : Word := r.cls ++ r.x.getD f.x ++ r.y.getD f.y ++ r.n.getD f.n

theorem getD_of_nibbleMatches {p : Option Nibble} {b : Nibble} (h : nibbleMatches p b = true) : p.getD b = b := by
  cases p with
  | none => rfl
  | some k => exact (beq_iff_eq.1 h).symm

theorem OpRow.fill_of_matches {r : OpRow} {w : Word} (h : r.matchesFields (cut w) = true) : r.fill (cut w) = w := by
  obtain ⟨hc, hx, hy, hn⟩ := matchesFields_iff.1 h
  unfold OpRow.fill
  rw [getD_of_nibbleMatches hx, getD_of_nibbleMatches hy, getD_of_nibbleMatches hn, ← hc, nibbles_of_word]

/-- The encoder puts each operand back where the row's pattern has it. -/
theorem encode_build (w : Word) : ∀ r ∈ opcodeMap, encode (r.build (cut w)) = r.fill (cut w) := by
  obtain ⟨hnnnx, hnnny, hnnnn, hnny, hnnn⟩ := cut_immediate_nibbles w
  have hn : nibOf (cut w).n.toFin = (cut w).n := rfl
  simp [opcodeMap, opcodeRowsLow, opcodeRowsMid, opcodeRowsHigh, encode, OpRow.fill, wordNNN_nibbles, wordXNN_nibbles,
    wordXYN, hnnnx, hnnny, hnnnn, hnny, hnnn, hn]

/-- The two fields of JP V0, cut from one word, agree (R108). -/
theorem topNibbleIs_cut (w : Word) : topNibbleIs (regOf (cut w).x) (cut w).nnn = true := by
  obtain ⟨-, hx, -, -, -, hnnn⟩ := cut_toNat w
  have hval : (regOf (cut w).x).val = (cut w).x.toNat := rfl
  rw [topNibbleIs, beq_iff_eq, hval, hx, hnnn]
  omega

theorem wf_build (w : Word) : ∀ r ∈ opcodeMap, (r.build (cut w)).wf = true := by
  simp [opcodeMap, opcodeRowsLow, opcodeRowsMid, opcodeRowsHigh, Instr.wf, topNibbleIs_cut]

/-- Settles O6: the instruction was built by a row that matches the word, so its encoding fills that row's pattern with
the word's own nibbles. -/
theorem aDecodedWordIsTheEncodingOfItsInstruction : Obligations.ADecodedWordIsTheEncodingOfItsInstruction := by
  intro w i h
  rcases decode_cases w with ⟨r, hr, hm, hok⟩ | ⟨-, herr⟩
  · rw [hok] at h
    cases h
    exact ⟨wf_build w r hr, (encode_build w r hr).trans (OpRow.fill_of_matches hm)⟩
  · rw [herr] at h
    cases h

/-! ### Words written as numbers -/

theorem toNat_wordNNN (c : Nibble) (nnn : Addr12) : (wordNNN c nnn).toNat = 4096 * c.toNat + nnn.toNat := by
  rw [wordNNN_eq_ofNat, BitVec.toNat_ofNat]
  omega

theorem toNat_wordXNN (c : Nibble) (x : Reg) (nn : Byte) :
    (wordXNN c x nn).toNat = 4096 * c.toNat + 256 * x.val + nn.toNat := by
  rw [wordXNN_eq_ofNat, BitVec.toNat_ofNat]
  omega

theorem toNat_wordXYN (c : Nibble) (x y : Reg) (n : Nibble) :
    (wordXYN c x y n).toNat = 4096 * c.toNat + 256 * x.val + 16 * y.val + n.toNat := by
  rw [wordXYN_eq_ofNat, BitVec.toNat_ofNat]
  omega

theorem decode_ofNat {i : Instr} {w : Nat} (hwf : i.wf = true) (h : (encode i).toNat = w) :
    decode (BitVec.ofNat 16 w) = .ok i := by
  rw [← h, BitVec.ofNat_toNat, BitVec.setWidth_eq, decode_encode i hwf]

/-- Settles O7: the instruction says which pattern of the list it is, and the number listed is that of its encoding. -/
theorem everyPatternDecodesToItsInstruction : Obligations.EveryPatternDecodesToItsInstruction := by
  intro x y n nn nnn i w h
  suffices hi : i.wf = true ∧ (encode i).toNat = w from decode_ofNat hi.1 hi.2
  cases i with
  | cls | ret =>
    simp at h
    exact ⟨rfl, h.symm⟩
  | jp | call | ldI =>
    simp at h
    obtain ⟨rfl, rfl⟩ := h
    exact ⟨rfl, toNat_wordNNN _ _⟩
  | jpV0 =>
    simp at h
    obtain ⟨htop, rfl, rfl, rfl⟩ := h
    exact ⟨htop, toNat_wordNNN _ _⟩
  | seImm | sneImm | ldImm | addImm | rnd =>
    simp at h
    obtain ⟨rfl, rfl, rfl⟩ := h
    exact ⟨rfl, toNat_wordXNN _ _ _⟩
  | seReg | ldReg | orReg | andReg | xorReg | addReg | sub | shr | subn | shl | sneReg =>
    simp at h
    obtain ⟨rfl, rfl, rfl⟩ := h
    refine ⟨rfl, (toNat_wordXYN _ _ _ _).trans ?_⟩
    bv_omega
  | drw =>
    simp at h
    obtain ⟨rfl, rfl, rfl, rfl⟩ := h
    exact ⟨rfl, toNat_wordXYN _ _ _ _⟩
  | skp | sknp | ldVxDT | ldVxK | ldDTVx | ldSTVx | addI | ldF | ldB | storeRegs | loadRegs =>
    simp at h
    obtain ⟨rfl, rfl⟩ := h
    refine ⟨rfl, (toNat_wordXNN _ _ _).trans ?_⟩
    bv_omega

/-- Settles O8: each legal word is the encoding of its instruction, and 5121 has a last nibble that class 5 does not. -/
theorem wordsOfEachFamilyDecodeAsTheTableSays : Obligations.WordsOfEachFamilyDecodeAsTheTableSays :=
  ⟨decode_encode .ret rfl, decode_encode (.call 0xABC) rfl, decode_encode (.jpV0 3 0x3FF) rfl,
    decode_encode (.ldImm 10 2) rfl, decode_encode (.addReg 10 11) rfl, decode_encode (.drw 1 2 5) rfl,
    decode_encode (.skp 1) rfl, decode_encode (.ldVxK 4) rfl, decode_encode (.loadRegs 2) rfl,
    (illegalWordsAreTheListedOnes 0x5121).2 (.inr (.inl ⟨rfl, by decide⟩))⟩

end Sys2Proof
end

section
/-! PROOFS. The step as the decoded instruction, then the Frame Driver's answer to it (R60, R186, R190). -/

namespace Sys2Proof.Machine

variable {s : State}

theorem runWord_legal {w : Word} {i : Instr} (h : decode w = .ok i) : runWord w s = exec i s := by
  unfold runWord
  rw [h]

/-- At an enabled boundary the Frame Driver answers to what the instruction at `pc` does. -/
theorem step_eq_afterStep_exec {i : Instr} (hs : StepEnabled s) (hpc : s.pc.toNat ≤ 4094)
    (hw : decode (wordAtPc s) = .ok i) : step s = afterStep s (exec i s) := by
  obtain ⟨hrun, hend⟩ := hs
  rw [step_enabled hrun hend, coreStep_inside hpc, runWord_legal hw]

theorem afterStep_fault_halt {f : Fault} (hp : s.cfg.faultPolicy = .halt) : afterStep s (.fault f) = .fault f := by
  unfold afterStep
  rw [hp]

theorem afterStep_fault_skip {f : Fault} (hp : s.cfg.faultPolicy = .skip) :
    afterStep s (.fault f) = .next s.skipFault.countStep := by
  unfold afterStep
  rw [hp]

/-- Settles O13, by the three answers that the Frame Driver has for the instruction. -/
theorem aStepRunsTheDecodedInstruction : Obligations.AStepRunsTheDecodedInstruction := by
  intro s i hs hpc hw
  rw [step_eq_afterStep_exec hs hpc hw]
  refine ⟨fun t ht => ?_, fun f hf hp => ?_, fun f hf hp => ?_⟩
  · rw [ht]
    rfl
  · rw [hf, afterStep_fault_halt hp]
  · rw [hf, afterStep_fault_skip hp]

end Sys2Proof.Machine
end

section
/-! PROOFS. Control flow (R100 to R108): what CALL and RET do at each height of the stack, which way the skips go, and
the register that JP V0 adds. -/

namespace Sys2Proof.Machine

variable {s t : State}

/-! ### The call stack -/

/-- Whatever is stored in the slots, in `SP` and in `pc`, the rest is as before. -/
theorem onlyStackAndPc_set (s : State) (v : Vector Word 16) (n : Fin 17) (p : Word) :
    OnlyStackAndPc s (((s.setStack v).setSp n).setPc p) :=
  ⟨fun _ _ => rfl, rfl, fun _ => rfl, rfl, ⟨rfl, rfl⟩, ⟨rfl, rfl, rfl, rfl, rfl, rfl⟩, rfl⟩

/-- With a slot free, CALL pushes its own address to it (R103). -/
theorem execCall_of_room {k : Fin 16} (nnn : Addr12) (h : s.sp = k.castSucc) :
    execCall nnn s = .next (((s.setStack (s.stack.set k s.pc)).setSp k.succ).setPc (zext12 nnn)) := by
  unfold execCall
  simp only [h, Fin.val_castSucc, dif_pos k.isLt]
  rfl

theorem execCall_of_full (nnn : Addr12) (h : s.sp = Fin.last 16) :
    execCall nnn s = .fault (.stackOverflow s.pc) := by
  unfold execCall
  rw [dif_neg (by simp [h])]
  rfl

/-- CALL answers only when a slot is free, and then it has pushed (R103). -/
theorem execCall_next {nnn : Addr12} (h : execCall nnn s = .next t) :
    ∃ k : Fin 16, s.sp = k.castSucc ∧
      t = ((s.setStack (s.stack.set k s.pc)).setSp k.succ).setPc (zext12 nnn) := by
  rcases Fin.eq_castSucc_or_eq_last s.sp with ⟨k, hk⟩ | hfull
  · rw [execCall_of_room nnn hk] at h
    cases h
    exact ⟨k, hk, rfl⟩
  · rw [execCall_of_full nnn hfull] at h
    cases h

/-- With a call outstanding, RET takes the top slot's address, and the slot keeps it (R101). -/
theorem execRet_of_call {k : Fin 16} (h : s.sp = k.succ) :
    execRet s = .next ((s.setSp k.castSucc).setPc (s.stack[k] + 2)) := by
  unfold execRet
  simp only [h, Fin.val_succ, Nat.add_sub_cancel, dif_pos k.val.succ_pos]
  rfl

theorem execRet_of_empty (h : s.sp = 0) : execRet s = .fault (.stackUnderflow s.pc) := by
  unfold execRet
  rw [dif_neg (by simp [h])]
  rfl

/-- Settles O33: the slot that RET reads in `u` is the one that CALL wrote in `t`. -/
theorem returnAfterCallContinuesAfterTheCall : Obligations.ReturnAfterCallContinuesAfterTheCall := by
  intro s t u nnn hcall husp hustack
  obtain ⟨k, hsp, rfl⟩ := execCall_next hcall
  have hslot : u.stack[k] = s.pc := by
    rw [hustack]
    exact Vector.getElem_set_self k.isLt
  exact ⟨_, execRet_of_call husp, congrArg (· + 2) hslot, hsp.symm⟩

/-- Settles O31, by whether a slot is free. -/
theorem callPushesItsOwnAddress : Obligations.CallPushesItsOwnAddress := by
  intro s nnn
  refine ⟨fun k hk => ?_, fun hfull => execCall_of_full nnn (Fin.ext hfull)⟩
  have hpushed : (s.stack.set k s.pc)[k] = s.pc := Vector.getElem_set_self k.isLt
  have hothers : ∀ j : Fin 16, j ≠ k → (s.stack.set k s.pc)[j] = s.stack[j] := fun j hj =>
    Vector.getElem_set_ne k.isLt j.isLt (Fin.val_ne_of_ne hj.symm)
  exact ⟨_, execCall_of_room nnn (Fin.ext hk), hpushed, hothers, congrArg (· + 1) hk.symm, zext12_toNat nnn,
    onlyStackAndPc_set ..⟩

/-- Settles O32, by whether a call is outstanding. A RET leaves every slot as it is, so it sets the stack to itself. -/
theorem returnGoesPastThePoppedCall : Obligations.ReturnGoesPastThePoppedCall := fun s =>
  ⟨fun k hk => ⟨_, execRet_of_call (k := k) (Fin.ext hk), rfl, rfl, rfl, onlyStackAndPc_set s s.stack ..⟩,
    fun hempty => execRet_of_empty (Fin.ext hempty)⟩

/-! ### Skips -/

/-- A skip changes `pc` alone, by 4 or by 2 as its condition has it (R13). -/
theorem skipIf_eq_next (c : Bool) (s : State) : skipIf c s = .next (s.setPc (if c then s.pc + 4 else s.pc + 2)) := by
  cases c with
  | false => rfl
  | true => rfl

/-- What SE does, in either operand form (R104, R106). -/
theorem skipIf_beq (a b : Byte) (s : State) : ∃ t, skipIf (a == b) s = .next t ∧
    t.pc = (if a.toNat = b.toNat then s.pc + 4 else s.pc + 2) ∧ OnlyRegsAndPc [] s t :=
  ⟨_, skipIf_eq_next .., by simp [BitVec.toNat_inj], onlyRegsAndPc_setPc ..⟩

/-- What SNE does, in either operand form (R105, R107). -/
theorem skipIf_bne (a b : Byte) (s : State) : ∃ t, skipIf (a != b) s = .next t ∧
    t.pc = (if a.toNat = b.toNat then s.pc + 2 else s.pc + 4) ∧ OnlyRegsAndPc [] s t :=
  ⟨_, skipIf_eq_next .., by simp [BitVec.toNat_inj], onlyRegsAndPc_setPc ..⟩

/-- Settles O34: both compare `V[x]` with the immediate. -/
theorem immediateSkipsCompareAllEightBits : Obligations.ImmediateSkipsCompareAllEightBits :=
  fun s x nn => ⟨skipIf_beq (s.reg x) nn s, skipIf_bne (s.reg x) nn s⟩

/-- Settles O35: both compare `V[x]` with `V[y]`. -/
theorem registerSkipsCompareAllEightBits : Obligations.RegisterSkipsCompareAllEightBits :=
  fun s x y => ⟨skipIf_beq (s.reg x) (s.reg y) s, skipIf_bne (s.reg x) (s.reg y) s⟩

/-! ### Jumps -/

/-- Settles O30: a jump changes `pc` alone. -/
theorem jumpSetsPcToTheAddress : Obligations.JumpSetsPcToTheAddress :=
  fun s nnn => ⟨s.setPc (zext12 nnn), rfl, zext12_toNat nnn, onlyRegsAndPc_setPc ..⟩

theorem jumpRegister_of_clear (x : Reg) (h : s.cfg.quirks.jumpAddsRegisterX = false) : jumpRegister x s = 0 := by
  simp [jumpRegister, h]

theorem jumpRegister_of_set (x : Reg) (h : s.cfg.quirks.jumpAddsRegisterX = true) : jumpRegister x s = x := by
  simp [jumpRegister, h]

/-- The register that is the top nibble of `nnn` is unique (R108). -/
theorem eq_of_topNibbleIs {x r : Reg} {nnn : Addr12} (hx : topNibbleIs x nnn = true) (hr : r.val = nnn.toNat / 256) :
    x = r :=
  Fin.ext ((beq_iff_eq.1 hx).trans hr.symm)

/-- Settles O36: the sum stays below 16 bits, and the flag chooses its register. -/
theorem offsetJumpAddsTheQuirksRegister : Obligations.OffsetJumpAddsTheQuirksRegister := by
  intro s x nnn hx
  have hsum : (zext12 nnn + zext8 (s.reg (jumpRegister x s))).toNat = nnn.toNat + (s.reg (jumpRegister x s)).toNat :=
    zext12_add_zext8_toNat ..
  refine ⟨_, rfl, onlyRegsAndPc_setPc .., fun hclear => hsum.trans ?_, fun hset r hr => hsum.trans ?_⟩
  · rw [jumpRegister_of_clear x hclear]
  · rw [jumpRegister_of_set x hset, eq_of_topNibbleIs hx hr]

end Sys2Proof.Machine
end

section
/-! PROOFS. Load and ALU (R120 to R132): the three ways in which a handler of this family ends, then the numbers that
the results and flags are. -/

namespace Sys2Proof.Machine

/-! ### How a handler that writes a result ends -/

/-- One register written (R121 to R123). -/
theorem finish_setReg (s : State) (x : Reg) (v : Byte) : ∃ t, finish (s.setReg x v) = .next t ∧ t.reg x = v ∧
    t.pc = s.pc + 2 ∧ OnlyRegsAndPc [x] s t :=
  ⟨_, rfl, reg_setReg_self .., rfl, onlyRegsAndPc_setReg ..⟩

/-- A result that is the number `n`, and the flag (R127 to R131). -/
theorem finish_setResultAndFlag (s : State) (x : Reg) {r : Byte} {n : Nat} (c : Bool) (hr : r.toNat = n) :
    ∃ t, finish (s.setResultAndFlag x r c) = .next t ∧ ResultAndFlag s t x n c ∧ t.pc = s.pc + 2 ∧
      OnlyRegsAndPc [x, VF] s t :=
  ⟨_, rfl, resultAndFlag_setResultAndFlag _ _ _ _ _ hr, setResultAndFlag_advance_pc .., onlyRegsAndPc_setResultAndFlag ..⟩

/-- A bitwise result that is the number `n`, and the flag as VfReset has it (R124 to R126). -/
theorem finish_setLogicResult (s : State) (x : Reg) {r : Byte} {n : Nat} (hr : r.toNat = n) :
    ∃ t, finish (s.setLogicResult x r) = .next t ∧ LogicResult s t x n ∧ t.pc = s.pc + 2 ∧
      OnlyRegsAndPc (logicDestinations s x) s t :=
  ⟨_, rfl, logicResult_setLogicResult _ _ _ _ hr, setLogicResult_advance_pc .., onlyRegsAndPc_setLogicResult ..⟩

/-! ### Results and flags as numbers -/

/-- A difference modulo 256 (R128, R130). -/
theorem byte_sub_toNat (a b : Byte) : (a - b).toNat = (a.toNat + 256 - b.toNat) % 256 := by
  have hb := b.isLt
  rw [BitVec.toNat_sub]
  omega

/-- A logical shift to the right by one (R129). -/
theorem byte_shiftRight_one_toNat (a : Byte) : (a >>> 1).toNat = a.toNat / 2 := by
  rw [BitVec.toNat_ushiftRight, Nat.shiftRight_eq_div_pow, Nat.pow_one]

/-- A shift to the left by one (R131). -/
theorem byte_shiftLeft_one_toNat (a : Byte) : (a <<< 1).toNat = 2 * a.toNat % 256 := by
  rw [BitVec.toNat_shiftLeft, Nat.shiftLeft_eq, Nat.pow_one, Nat.mul_comm]

/-- Bit 0 is the parity (R129). -/
theorem bitOutLow_eq (a : Byte) : bitOutLow a = decide (a.toNat % 2 = 1) := by
  simp [bitOutLow, BitVec.getLsbD, Nat.testBit_zero]

/-- Bit 7 is the top bit: set from 128 on (R131). -/
theorem bitOutHigh_eq (a : Byte) : bitOutHigh a = decide (128 ≤ a.toNat) :=
  BitVec.msb_eq_decide a

/-! ### The obligations -/

/-- Settles O39: the three results are the bitwise operations on numbers. -/
theorem logicOperationsClearTheFlagUnderVfReset : Obligations.LogicOperationsClearTheFlagUnderVfReset :=
  fun s x _ => ⟨finish_setLogicResult s x (BitVec.toNat_or ..), finish_setLogicResult s x (BitVec.toNat_and ..),
    finish_setLogicResult s x (BitVec.toNat_xor ..)⟩

/-- Settles O40: the sum of two bytes is modulo 256, and the carry is the flag of R127 as it stands. -/
theorem addRegistersSetsTheCarry : Obligations.AddRegistersSetsTheCarry :=
  fun s x y => finish_setResultAndFlag s x (carryOut (s.reg x) (s.reg y)) (BitVec.toNat_add ..)

/-- Settles O41: SUBN is SUB with its operands exchanged. -/
theorem subtractionsSetNotBorrow : Obligations.SubtractionsSetNotBorrow :=
  fun s x y => ⟨finish_setResultAndFlag s x (noBorrow (s.reg x) (s.reg y)) (byte_sub_toNat ..),
    finish_setResultAndFlag s x (noBorrow (s.reg y) (s.reg x)) (byte_sub_toNat ..)⟩

/-- Settles O42: `a` is the number of the byte that the quirk chooses, and each shift moves one bit of it to VF. -/
theorem shiftsMoveTheBitShiftedOutToVF : Obligations.ShiftsMoveTheBitShiftedOutToVF := by
  intro s x y a ha
  obtain rfl : a = (shiftSource x y s).toNat := ha.trans (shiftSource_toNat x y s).symm
  rw [← bitOutLow_eq, ← bitOutHigh_eq]
  exact ⟨finish_setResultAndFlag s x _ (byte_shiftRight_one_toNat _),
    finish_setResultAndFlag s x _ (byte_shiftLeft_one_toNat _)⟩

/-- Settles O37: both write one byte to `V[x]`. -/
theorem loadsCopyAnImmediateOrARegister : Obligations.LoadsCopyAnImmediateOrARegister :=
  fun s x y nn => ⟨finish_setReg s x nn, finish_setReg s x (s.reg y)⟩

/-- Settles O38: the byte written is the sum modulo 256. -/
theorem addImmediateWrapsAndWritesNoFlag : Obligations.AddImmediateWrapsAndWritesNoFlag := by
  intro s x nn
  obtain ⟨t, hexec, hx, hframe⟩ := finish_setReg s x (s.reg x + nn)
  exact ⟨t, hexec, hx ▸ BitVec.toNat_add .., hframe⟩

/-- Settles O43: RND draws a byte and writes its mask to `V[x]` of the state that has drawn. -/
theorem randomMasksOneDrawnByte : Obligations.RandomMasksOneDrawnByte := by
  intro s x nn
  obtain ⟨t, hexec, hx, hpc, hframe⟩ := finish_setReg (s.setDraws (s.draws + 1)) x (Config.drawnByte s.draws &&& nn)
  refine ⟨t, hexec, hx ▸ BitVec.toNat_and .., fun k hk => ?_, hframe.draws, hpc, hframe⟩
  rw [hx, BitVec.getLsbD_and, Bool.and_eq_true] at hk
  exact hk.2

end Sys2Proof.Machine
end

section
/-! PROOFS. The display (R140 to R142): what CLS and DRW leave of each cell, and that the same DRW twice falls on the
same cells. -/

namespace Sys2Proof.Machine

/-! ### CLS -/

theorem onlyFrameRegsAndPc_setFb (s : State) (f : Frame) : OnlyFrameRegsAndPc [] s (s.setFb f).advance :=
  ⟨fun _ _ => rfl, rfl, fun _ => rfl, ⟨rfl, rfl⟩, ⟨rfl, rfl⟩, ⟨rfl, rfl, rfl, rfl, rfl, rfl⟩, rfl⟩

theorem hasColor_of_inFrame {s : State} {px py : Nat} (h : InFrame s px py) :
    hasColor s px py = .ok (s.cellAt px py) := if_pos h

/-- Settles O44: no cell is lit in the empty frame that CLS stores. -/
theorem clearScreenZeroesEveryCell : Obligations.ClearScreenZeroesEveryCell := fun s =>
  ⟨(s.setFb []).advance, rfl, fun _ _ hin => hasColor_of_inFrame hin, rfl, onlyFrameRegsAndPc_setFb s []⟩

/-! ### DRW -/

/-- Some set sprite pixel falls on a cell that is 1 (R141). -/
def SpriteCollides (s : State) (x y : Reg) (n : Fin 16) : Prop :=
  ∃ px py, InFrame s px py ∧ SpritePixelAt s x y n px py ∧ s.cellAt px py = true

/-- What R141 says of the state `t` after DRW Vx, Vy, n at `s`. -/
structure SpriteDrawn (x y : Reg) (n : Fin 16) (s t : State) : Prop where
  inverted : ∀ px py, InFrame s px py → SpritePixelAt s x y n px py → t.cellAt px py = !s.cellAt px py
  kept     : ∀ px py, InFrame s px py → ¬SpritePixelAt s x y n px py → t.cellAt px py = s.cellAt px py
  hit      : SpriteCollides s x y n → (t.reg VF).toNat = 1
  miss     : ¬SpriteCollides s x y n → (t.reg VF).toNat = 0
  pc       : t.pc = s.pc + 2
  only     : OnlyFrameRegsAndPc [VF] s t

variable {s t : State} {x y : Reg} {n : Fin 16}

/-- The cells and the flag of `Frame.plotAll`, read off the set of cells drawn. -/
theorem spriteDrawn_plotAll (s : State) (x y : Reg) (n : Fin 16) :
    SpriteDrawn x y n s ((s.setFb (Frame.plotAll s.fb (drawnCells x y n s)).1).setFlag
      (Frame.plotAll s.fb (drawnCells x y n s)).2).advance where
  inverted px py hin hp := by
    have hd := (mem_drawnCells_iff_spritePixelAt s x y n px py hin).mpr hp
    exact (lit_plotAll_drawnCells s x y n px py).trans (by rw [decide_eq_true hd, Bool.xor_true])
  kept px py hin hp := by
    have hd := mt (mem_drawnCells_iff_spritePixelAt s x y n px py hin).mp hp
    exact (lit_plotAll_drawnCells s x y n px py).trans (by rw [decide_eq_false hd, Bool.xor_false])
  hit hc := by
    rw [State.advance_reg, reg_setFlag_self, flagByte_toNat, if_pos ((hit_plotAll_drawnCells s x y n).mpr hc)]
  miss hc := by
    rw [State.advance_reg, reg_setFlag_self, flagByte_toNat, if_neg (mt (hit_plotAll_drawnCells s x y n).mp hc)]
  pc := rfl
  only := onlyFrameRegsAndPc_setFb_setFlag ..

theorem execDrw_draws (x y : Reg) (h : RangeInMemory s n.val) :
    ∃ t, execDrw x y n s = .next t ∧ SpriteDrawn x y n s t :=
  ⟨_, execDrw_inside x y h, spriteDrawn_plotAll s x y n⟩

/-- A DRW that answers had its bytes inside memory and drew its sprite. -/
theorem execDrw_next (h : execDrw x y n s = .next t) : RangeInMemory s n.val ∧ SpriteDrawn x y n s t := by
  obtain ⟨hr, h⟩ := withRange_next h
  cases h
  exact ⟨hr, spriteDrawn_plotAll s x y n⟩

/-- Settles O45, by whether the sprite's bytes lie inside memory. -/
theorem drawXorsTheSpriteAndReportsCollision : Obligations.DrawXorsTheSpriteAndReportsCollision := by
  intro s x y n
  refine ⟨fun hr => ?_, fun hr => withRange_outside _ hr⟩
  obtain ⟨t, hexec, hd⟩ := execDrw_draws x y hr
  exact ⟨t, hexec, hd.inverted, hd.kept, hd.hit, hd.miss, hd.pc, hd.only⟩

/-! ### The same DRW twice -/

theorem SpriteDrawn.cfg_eq (h : SpriteDrawn x y n s t) : t.cfg = s.cfg := h.only.host.1

theorem SpriteDrawn.inFrame_iff (h : SpriteDrawn x y n s t) (px py : Nat) : InFrame t px py ↔ InFrame s px py := by
  unfold InFrame
  rw [h.cfg_eq]

theorem SpriteDrawn.rangeInMemory (h : SpriteDrawn x y n s t) (hr : RangeInMemory s n.val) :
    RangeInMemory t n.val := by
  unfold RangeInMemory
  rwa [h.only.index]

/-- DRW leaves its own operands alone unless one of them is VF, so it falls on the same cells again (R142). -/
theorem SpriteDrawn.spritePixelAt_iff (h : SpriteDrawn x y n s t) (hx : x ≠ VF) (hy : y ≠ VF) (px py : Nat) :
    SpritePixelAt t x y n px py ↔ SpritePixelAt s x y n px py := by
  have hrx : t.reg x = s.reg x := h.only.regs x (List.mem_singleton.not.mpr hx)
  have hry : t.reg y = s.reg y := h.only.regs y (List.mem_singleton.not.mpr hy)
  have hmem : ∀ a, t.byteAt a = s.byteAt a := h.only.mem
  unfold SpritePixelAt
  simp only [h.cfg_eq, h.only.index, hrx, hry, hmem]

section
variable {u : State} (hx : x ≠ VF) (hy : y ≠ VF) (h₁ : SpriteDrawn x y n s t) (h₂ : SpriteDrawn x y n t u)
include hx hy h₁ h₂

/-- R142 (a): a cell is inverted by both or by neither. -/
theorem SpriteDrawn.twice_restores {px py : Nat} (hin : InFrame s px py) : u.cellAt px py = s.cellAt px py := by
  have hin' := (h₁.inFrame_iff px py).mpr hin
  have hpix := h₁.spritePixelAt_iff hx hy px py
  by_cases hp : SpritePixelAt s x y n px py
  · rw [h₂.inverted px py hin' (hpix.mpr hp), h₁.inverted px py hin hp, Bool.not_not]
  · rw [h₂.kept px py hin' (mt hpix.mp hp), h₁.kept px py hin hp]

/-- R142 (b): on a blank frame the first lights the cells that the second collides with. -/
theorem SpriteDrawn.twice_collides_iff (hblank : ∀ px py, InFrame s px py → s.cellAt px py = false) :
    (u.reg VF).toNat = 1 ↔ ∃ px py, InFrame s px py ∧ SpritePixelAt s x y n px py := by
  constructor
  · intro hvf
    by_contra hnone
    have hmiss : ¬SpriteCollides t x y n := fun ⟨px, py, hin, hp, _⟩ =>
      hnone ⟨px, py, (h₁.inFrame_iff px py).mp hin, (h₁.spritePixelAt_iff hx hy px py).mp hp⟩
    rw [h₂.miss hmiss] at hvf
    cases hvf
  · rintro ⟨px, py, hin, hp⟩
    refine h₂.hit ⟨px, py, (h₁.inFrame_iff px py).mpr hin, (h₁.spritePixelAt_iff hx hy px py).mpr hp, ?_⟩
    rw [h₁.inverted px py hin hp, hblank px py hin, Bool.not_false]

end

theorem not_spriteCollides_of_blank (hblank : ∀ px py, InFrame s px py → s.cellAt px py = false) :
    ¬SpriteCollides s x y n := fun ⟨px, py, hin, _, hlit⟩ => by
  rw [hblank px py hin] at hlit
  cases hlit

/-- Settles O46: the range is as good for the second DRW as it was for the first, and R142 says what the two do. -/
theorem drawingTwiceRestoresTheFrame : Obligations.DrawingTwiceRestoresTheFrame := by
  intro s t x y n hx hy h
  obtain ⟨hr, h₁⟩ := execDrw_next h
  obtain ⟨u, hexec, h₂⟩ := execDrw_draws x y (h₁.rangeInMemory hr)
  exact ⟨u, hexec, fun _ _ => SpriteDrawn.twice_restores hx hy h₁ h₂, fun hblank =>
    ⟨h₁.miss (not_spriteCollides_of_blank hblank), SpriteDrawn.twice_collides_iff hx hy h₁ h₂ hblank⟩⟩

end Sys2Proof.Machine
end

section
/-! PROOFS. Keypad and timers (R150 to R156): the two key skips, the wait for a key, and the three timer moves. -/

namespace Sys2Proof.Machine

/-! ### Key skips -/

/-- SKP with a key that `V[x]` names (R151). -/
theorem execSkp_inside {s : State} {x k : Reg} (h : (s.reg x).toNat = k.val) :
    execSkp x s = .next (s.setPc (if s.key k then s.pc + 4 else s.pc + 2)) :=
  (withKey_inside _ k h).trans (skipIf_eq_next ..)

/-- SKNP is the skip of SKP with its two endings exchanged (R152). -/
theorem execSknp_inside {s : State} {x k : Reg} (h : (s.reg x).toNat = k.val) :
    execSknp x s = .next (s.setPc (if s.key k then s.pc + 2 else s.pc + 4)) := by
  have hskip : execSknp x s = .next (s.setPc (if !s.key k then s.pc + 4 else s.pc + 2)) :=
    (withKey_inside _ k h).trans (skipIf_eq_next ..)
  rw [hskip]
  cases s.key k with
  | false => rfl
  | true => rfl

theorem execSkp_outside {s : State} {x : Reg} (h : 15 < (s.reg x).toNat) :
    execSkp x s = .fault (.keyIndexOutOfRange (s.reg x)) := withKey_outside _ h

theorem execSknp_outside {s : State} {x : Reg} (h : 15 < (s.reg x).toNat) :
    execSknp x s = .fault (.keyIndexOutOfRange (s.reg x)) := withKey_outside _ h

/-- Settles O47, by whether `V[x]` names a key. -/
theorem keySkipsTestTheKeyVxNames : Obligations.KeySkipsTestTheKeyVxNames := by
  intro s x
  constructor
  · intro k hk
    exact ⟨⟨_, execSkp_inside hk, rfl, onlyRegsAndPc_setPc ..⟩, ⟨_, execSknp_inside hk, rfl, onlyRegsAndPc_setPc ..⟩⟩
  · intro hout
    exact ⟨execSkp_outside hout, execSknp_outside hout⟩

/-! ### The wait for a key -/

theorem execLdVxK_of_some {s : State} {k : Reg} (x : Reg) (h : firstKeyDown s = some k) :
    execLdVxK x s = finish (s.setReg x (BitVec.ofNat 8 k.val)) := by
  simp [execLdVxK, h]

theorem execLdVxK_of_none {s : State} (x : Reg) (h : firstKeyDown s = none) : execLdVxK x s = .next s := by
  simp [execLdVxK, h]

/-- The number of a key fits in a byte. -/
theorem keyByte_toNat (k : Reg) : (BitVec.ofNat 8 k.val).toNat = k.val :=
  (BitVec.toNat_ofNat ..).trans (Nat.mod_eq_of_lt (k.isLt.trans (by decide)))

/-- Settles O48, by whether the scan finds a key down. -/
theorem waitForKeyTakesTheLowestKeyDown : Obligations.WaitForKeyTakesTheLowestKeyDown := by
  intro s x
  constructor
  · intro k hdown hlower
    have hfirst : firstKeyDown s = some k := (firstKeyDown_eq_some_iff s k).mpr ⟨hdown, hlower⟩
    obtain ⟨t, hfinish, hx, hframe⟩ := finish_setReg s x (BitVec.ofNat 8 k.val)
    exact ⟨t, (execLdVxK_of_some x hfirst).trans hfinish, hx ▸ keyByte_toNat k, hframe⟩
  · intro hup
    exact execLdVxK_of_none x ((firstKeyDown_eq_none_iff s).mpr hup)

/-! ### Timer moves -/

/-- Whatever is stored in the two timers and in `pc`, the rest is as before. -/
theorem onlyTimersAndPc_set (s : State) (d e : Byte) (p : Word) :
    OnlyTimersAndPc s (((s.setDt d).setSt e).setPc p) :=
  ⟨fun _ _ => rfl, rfl, fun _ => rfl, rfl, ⟨rfl, rfl⟩, ⟨rfl, rfl, rfl, rfl, rfl, rfl⟩, rfl⟩

/-- Settles O49: each move writes one byte. A timer that is held is set to itself. -/
theorem timerMovesCopyBetweenRegisterAndTimer : Obligations.TimerMovesCopyBetweenRegisterAndTimer := fun s x =>
  ⟨finish_setReg s x s.dt,
    ⟨_, rfl, rfl, rfl, rfl, onlyTimersAndPc_set s (s.reg x) s.st _⟩,
    ⟨_, rfl, rfl, rfl, rfl, onlyTimersAndPc_set s s.dt (s.reg x) _⟩⟩

end Sys2Proof.Machine
end

section
/-! PROOFS. Index and memory (R160 to R166): the three ways of writing `I`, the three digits of LD B, and the two block
transfers, which share their bounds check and their increment. -/

namespace Sys2Proof.Machine

/-! ### Writing `I` -/

/-- One value written to `I`, which is the number `n` (R160 to R162). -/
theorem finish_setIndex (s : State) {v : Word} {n : Nat} (hv : v.toNat = n) :
    ∃ t, finish (s.setIndex v) = .next t ∧ t.index.toNat = n ∧ t.pc = s.pc + 2 ∧ OnlyIndexAndPc s t :=
  ⟨_, rfl, hv, rfl, fun _ _ => rfl, fun _ => rfl, rfl, ⟨rfl, rfl⟩, ⟨rfl, rfl⟩, ⟨rfl, rfl, rfl, rfl, rfl, rfl⟩, rfl⟩

/-- The sum of ADD I wraps at 16 bits (R161). -/
theorem word_add_zext8_toNat (a : Word) (b : Byte) : (a + zext8 b).toNat = (a.toNat + b.toNat) % 65536 := by
  rw [BitVec.toNat_add, zext8_toNat]

/-- Five times a byte does not reach 16 bits (R162). -/
theorem glyphAddress_toNat (b : Byte) : (BitVec.ofNat 16 glyphHeight * zext8 b).toNat = 5 * b.toNat := by
  have hb := b.isLt
  have hfive : (BitVec.ofNat 16 glyphHeight).toNat = 5 := rfl
  rw [BitVec.toNat_mul, zext8_toNat, hfive]
  omega

/-- Settles O50: each writes one value to `I`, and the sum alone can wrap. -/
theorem indexIsSetAddedToOrPointedAtAGlyph : Obligations.IndexIsSetAddedToOrPointedAtAGlyph := fun s x nnn =>
  ⟨finish_setIndex s (zext12_toNat nnn), finish_setIndex s (word_add_zext8_toNat s.index (s.reg x)),
    finish_setIndex s (glyphAddress_toNat (s.reg x))⟩

/-! ### Storing bytes -/

/-- LD B and LD [I], the two that store, change their bytes, `I` and `pc` alone (R43, R163). -/
theorem WritesOnly.onlyTransferAndPc {i : Instr} {s t : State} (w : WritesOnly i s t) (hi : writesMem i = true) :
    OnlyTransferAndPc s.index.toNat (bytesStored i) [] s t := by
  cases i with
  | ldB | storeRegs =>
    exact ⟨fun r _ => w.regs r rfl, w.bytes, w.fb rfl, ⟨w.sp rfl, w.slots rfl⟩, ⟨w.dt rfl, w.st rfl⟩, w.host, w.draws⟩
  | _ => cases hi

/-! ### Decimal digits -/

/-- A decimal digit fits in a byte. -/
theorem digitByte_toNat {d : Nat} (hd : d < 10) : (BitVec.ofNat 8 d).toNat = d :=
  (BitVec.toNat_ofNat ..).trans (Nat.mod_eq_of_lt (hd.trans (by decide)))

/-- The bytes of LD B are the decimal digits of the register (R164). -/
theorem bcdDigits_toNat (v : Byte) :
    (bcdDigits v)[0].toNat = v.toNat / 100 ∧ (bcdDigits v)[1].toNat = v.toNat / 10 % 10 ∧
      (bcdDigits v)[2].toNat = v.toNat % 10 := by
  have hv := v.isLt
  exact ⟨digitByte_toNat (by omega), digitByte_toNat (by omega), digitByte_toNat (by omega)⟩

theorem execLdB_inside {s : State} (x : Reg) (h : s.index.toNat ≤ 4093) :
    execLdB x s = .next (s.memWriteBytes s.index.toNat (bcdDigits (s.reg x))).advance :=
  withRange_inside _ (by omega)

/-- A stored digit reads back (R164). -/
theorem byteAt_digit (s : State) (v : Byte) {j : Nat} (hj : j < 3) :
    (s.memWriteBytes s.index.toNat (bcdDigits v)).advance.byteAt (s.index.toNat + j) = (bcdDigits v)[j] :=
  memRead_memWriteBytes_inside s s.index.toNat j (bcdDigits v) hj

/-- Settles O51, by whether the three bytes lie inside memory. -/
theorem bcdStoresThreeDigitsAtIndex : Obligations.BcdStoresThreeDigitsAtIndex := by
  intro s x
  constructor
  · intro hin
    have hexec := execLdB_inside x hin
    obtain ⟨hhundreds, htens, hones⟩ := bcdDigits_toNat (s.reg x)
    refine ⟨_, hexec, ?_, ?_, ?_, rfl, rfl, (writesOnly_execLdB hexec).onlyTransferAndPc rfl⟩
    · exact (congrArg BitVec.toNat (byteAt_digit s _ (by decide))).trans hhundreds
    · exact (congrArg BitVec.toNat (byteAt_digit s _ (by decide))).trans htens
    · exact (congrArg BitVec.toNat (byteAt_digit s _ (by decide))).trans hones
  · intro hout
    exact withRange_outside _ (by omega)

/-! ### Block transfers -/

@[simp] theorem bumpIndex_reg (s : State) (x r : Reg) : (s.bumpIndex x).reg r = s.reg r := by
  obtain ⟨-, he⟩ | ⟨-, he⟩ := bumpIndex_cases s x
  · rw [he, State.setIndex_reg]
  · rw [he]

/-- Inside memory the increment does not wrap (R165, R166). -/
theorem bumpIndex_index_toNat {s : State} {x : Reg} (h : s.index.toNat + x.val < 4096) :
    (s.bumpIndex x).index.toNat =
      if s.cfg.quirks.loadStoreIncrementIndex then s.index.toNat + x.val + 1 else s.index.toNat := by
  obtain ⟨hq, he⟩ | ⟨hq, he⟩ := bumpIndex_cases s x
  · rw [he, hq, if_pos rfl, State.setIndex_index, BitVec.toNat_add, BitVec.toNat_ofNat]
    omega
  · rw [he, hq, if_neg Bool.false_ne_true]

section
variable {s : State} {x : Reg} (h : s.index.toNat + x.val < 4096)
include h

theorem execStoreRegs_inside :
    execStoreRegs x s = .next ((s.memWriteBytes s.index.toNat (regsUpTo x s)).bumpIndex x).advance :=
  withRange_inside _ (by omega)

theorem execLoadRegs_inside : execLoadRegs x s = .next ((s.loadRegsUpTo x).bumpIndex x).advance :=
  withRange_inside _ (by omega)

end

/-- Settles O52, by whether the bytes lie inside memory: each then reads back as the register stored there. -/
theorem blockStoreWritesRegistersUpToX : Obligations.BlockStoreWritesRegistersUpToX := by
  intro s x
  constructor
  · intro hin
    have hexec := execStoreRegs_inside hin
    exact ⟨_, hexec, fun r hr => (execStoreRegs_reads hexec hr).2, bumpIndex_index_toNat hin,
      exec_pcEnding (i := .storeRegs x) hexec, (writesOnly_execStoreRegs hexec).onlyTransferAndPc rfl⟩
  · intro hout
    exact withRange_outside _ (by omega)

/-- Settles O53, by whether the bytes lie inside memory: the registers up to Vx are then read from them. -/
theorem blockLoadReadsRegistersUpToX : Obligations.BlockLoadReadsRegistersUpToX := by
  intro s x
  constructor
  · intro hin
    have hexec := execLoadRegs_inside hin
    have hreg (r : Reg) : ((s.loadRegsUpTo x).bumpIndex x).advance.reg r =
        if r ≤ x then s.byteAt (s.index.toNat + r.val) else s.reg r := by
      rw [State.advance_reg, bumpIndex_reg, reg_loadRegsUpTo]
    have hindex : ((s.loadRegsUpTo x).bumpIndex x).advance.index.toNat =
        if s.cfg.quirks.loadStoreIncrementIndex then s.index.toNat + x.val + 1 else s.index.toNat := by
      rw [State.advance_index, bumpIndex_index_toNat (by rwa [State.loadRegsUpTo_index]), State.loadRegsUpTo_cfg,
        State.loadRegsUpTo_index]
    have w := writesOnly_execLoadRegs hexec
    exact ⟨_, hexec, fun r hr => (hreg r).trans (if_pos hr), fun r hr => (hreg r).trans (if_neg (not_le.mpr hr)),
      hindex, exec_pcEnding (i := .loadRegs x) hexec,
      memUnchanged_of_mem_eq w.host.1 (w.mem rfl), w.fb rfl, ⟨w.sp rfl, w.slots rfl⟩, ⟨w.dt rfl, w.st rfl⟩, w.host,
      w.draws⟩
  · intro hout
    exact withRange_outside _ (by omega)

end Sys2Proof.Machine
end

section
/-! PROOFS. The Frame Driver around a Step (R186, R190 to R195): where no Step is taken, the end of the program, what
the count of a Step leaves alone, and the fault that FAULT_POLICY = skip steps over. -/

namespace Sys2Proof.Machine

variable {s : State}

/-! ### Boundaries at which no Step is taken -/

theorem onlyRunState_setRunState (s : State) (r : RunState) : OnlyRunState s (s.setRunState r) :=
  ⟨fun _ _ => rfl, rfl, rfl, fun _ => rfl, rfl, ⟨rfl, rfl⟩, ⟨rfl, rfl⟩, rfl, rfl, rfl, rfl, rfl, rfl⟩

/-- The end-of-program transition (R195). -/
theorem step_pastEnd (hrun : s.runState = .running) (hend : 0x200 + s.programSize.val ≤ s.pc.toNat) :
    step s = .next (s.setRunState .finished) := by
  unfold step boundary
  rw [hrun]
  exact if_pos (decide_eq_true hend)

/-- Settles O15: the transition writes `runState` and nothing else. -/
theorem reachingTheProgramEndFinishesTheRun : Obligations.ReachingTheProgramEndFinishesTheRun :=
  fun s hrun hend => ⟨_, step_pastEnd hrun hend, rfl, onlyRunState_setRunState s .finished⟩

/-- Settles O16, by the run state. -/
theorem noStepIsEnabledOutsideRunning : Obligations.NoStepIsEnabledOutsideRunning := by
  intro s h
  unfold step boundary
  cases hrun : s.runState with
  | running => exact absurd hrun h
  | off | paused | finished => rfl

/-! ### The count of a Step -/

/-- The Frame Driver's count leaves everything but the count, the timers and the latches alone (R190, R192). -/
theorem countStep_unchanged (t : State) :
    RegsUnchangedBut [] t t.countStep ∧ t.countStep.pc = t.pc ∧ t.countStep.index = t.index ∧
      MemUnchanged t t.countStep ∧ t.countStep.fb = t.fb ∧ StackUnchanged t t.countStep ∧
      t.countStep.runState = t.runState ∧ t.countStep.programSize = t.programSize ∧ t.countStep.cfg = t.cfg ∧
      t.countStep.rom = t.rom ∧ t.countStep.draws = t.draws :=
  ⟨fun r _ => countStep_reg t r, countStep_pc t, countStep_index t, countStep_memRead t, countStep_fb t,
    ⟨countStep_sp t, countStep_stack t⟩, countStep_runState t, countStep_programSize t, countStep_cfg t,
    countStep_rom t, countStep_draws t⟩

/-- Settles O18: an instruction leaves the configuration and the count to the Frame Driver, so the count that `step`
takes after it is that of the Step taken at `s`. -/
theorem theLastStepOfAFrameTicksTheTimers : Obligations.TheLastStepOfAFrameTicksTheTimers := by
  intro s t i hs hpc hw hexec
  obtain ⟨hstep, -, -⟩ := aStepRunsTheDecodedInstruction s i hs hpc hw
  obtain ⟨hcfg, -, -, -, hcount, -⟩ := (exec_writesOnly hexec).host
  exact ⟨t.countStep, hstep t hexec, stepCounted_countStep hcfg hcount, countStep_unchanged t⟩

/-! ### Stepping over a fault -/

/-- FAULT_POLICY = skip steps over whatever the core's Step raises, and counts the Step (R186, D37). -/
theorem step_fault_of_skip {f : Fault} (hs : StepEnabled s) (hp : s.cfg.faultPolicy = .skip)
    (h : coreStep s = .fault f) : step s = .next s.skipFault.countStep := by
  obtain ⟨hrun, hpc⟩ := hs
  rw [step_enabled hrun hpc, h, afterStep_fault_skip hp]

/-- `pc + 2` leaves the count, the timers and the latches alone, so the Step is counted as from `s` itself. -/
theorem stepCounted_skipFault (s : State) : StepCounted s s s.skipFault.countStep :=
  { stepCounted_countStep (s := s) (t := s.skipFault) rfl rfl with }

/-- Settles O17: `skipFault` changes `pc` alone, and the count what `StepCounted` says. -/
theorem skipPolicyStepsOverAFaultingWord : Obligations.SkipPolicyStepsOverAFaultingWord := by
  intro s f hs hp hf
  obtain ⟨hregs, hpc, hindex, hmem, hfb, hstack, hstate, hrest⟩ := countStep_unchanged s.skipFault
  have hrunning : s.skipFault.countStep.runState = .running := hstate.trans hs.1
  exact ⟨_, step_fault_of_skip hs hp hf, hpc, stepCounted_skipFault s, hregs, hindex, hmem, hfb, hstack, hrunning,
    hrest⟩

end Sys2Proof.Machine
end

section
/-! PROOFS. The host's calls between Steps (R188 to R196): when each is accepted, what it changes, and when it is
refused. -/

namespace Sys2Proof.Machine

variable {s : State}

/-! ### The run state and the frame -/

/-- Settles O22, by whether the write is an arc of the host. -/
theorem theHostWritesRunStateAlongTheTable : Obligations.TheHostWritesRunStateAlongTheTable := by
  intro s r
  rw [← hostArc_iff_hostMayWrite s r]
  exact ⟨fun harc => ⟨s.setRunState r, if_pos harc, rfl, onlyRunState_setRunState s r⟩, fun harc => if_neg harc⟩

theorem hasColor_of_not_inFrame {px py : Nat} (h : ¬InFrame s px py) :
    hasColor s px py = .error (.outsideFrame px py) := if_neg h

/-- Settles O21: inside the frame `has_color` answers whether the cell is lit, and a position determines its cell. -/
theorem hasColorReadsOneCellOfTheFrame : Obligations.HasColorReadsOneCellOfTheFrame := by
  intro s px py
  refine ⟨fun hin => ?_, hasColor_of_not_inFrame⟩
  have hlit : s.cellAt px py = true ↔ py * frameWidth s.cfg + px ∈ s.fb := lit_iff_mem ..
  rw [hasColor_of_inFrame hin, Except.ok.injEq, Except.ok.injEq, ← Bool.not_eq_true, hlit]
  exact ⟨Iff.rfl, Iff.rfl, fun qx qy hq he => cellIndex_inj s.cfg hin.1 hq.1 he⟩

/-! ### The timers -/

theorem onlyTimersAndPc_frameTick (s : State) : OnlyTimersAndPc s s.frameTick :=
  onlyTimersAndPc_set s (countDown s.dt) (countDown s.st) s.pc

/-- Settles O19, by whether the call is due. -/
theorem frameTickCountsBothTimersDown : Obligations.FrameTickCountsBothTimersDown := by
  intro s
  constructor
  · intro hfree hrun
    exact ⟨s.frameTick, if_pos ⟨hfree, hrun⟩, countDown_toNat s.dt, countDown_toNat s.st, onlyTimersAndPc_frameTick s,
      rfl⟩
  · intro h
    refine if_neg fun ⟨hfree, hrun⟩ => ?_
    rcases h with hpaced | hstopped
    · rw [hpaced] at hfree
      cases hfree
    · exact hstopped hrun

/-! ### The latches -/

theorem key_setKey_self (s : State) (k : Reg) (v : Bool) : (s.setKeys (s.keys.set k v)).key k = v :=
  Vector.getElem_set_self k.isLt

theorem key_setKey_of_ne (s : State) {j k : Reg} (v : Bool) (h : j ≠ k) :
    (s.setKeys (s.keys.set k v)).key j = s.key j :=
  Vector.getElem_set_ne k.isLt j.isLt (Fin.val_ne_of_ne h.symm)

theorem keyDown_of_due (h : keyCallDue s = true) (k : Reg) :
    keyDown k.val s = .next (s.setKeys (s.keys.set k true)) := by
  unfold keyDown
  rw [dif_pos k.isLt, if_pos h]

theorem keyDown_of_not_due (h : ¬keyCallDue s = true) (k : Reg) : keyDown k.val s = .refused .keyCallInsideFrame := by
  unfold keyDown
  rw [dif_pos k.isLt, if_neg h]

theorem keyDown_outside {k : Nat} (h : 16 ≤ k) : keyDown k s = .refused (.keyOutsideKeypad k) :=
  dif_neg (Nat.not_lt.mpr h)

/-- Settles O20, by whether the call is due, with a `k` that is no key apart. -/
theorem keyCallsSetOneLatchAndClearAll : Obligations.KeyCallsSetOneLatchAndClearAll := by
  intro s
  rw [← keyCallDue_iff s]
  refine ⟨fun hdue => ⟨fun k => ?_, ?_⟩, fun hmodel hstep => ?_, fun k => keyDown_outside⟩
  · exact ⟨_, keyDown_of_due hdue k, key_setKey_self s k true, fun j => key_setKey_of_ne s true, rfl⟩
  · exact ⟨s.keysClear, if_pos hdue, key_keysClear s, rfl⟩
  · have hnot : ¬keyCallDue s = true := by simp [keyCallDue_iff, hmodel, hstep]
    exact ⟨keyDown_of_not_due hnot, if_neg hnot⟩

end Sys2Proof.Machine
end

section
/-! PROOFS. Where an instruction raises (R180, R181, R183): each of the eight that can, on both sides of its condition,
and the completion of the others. -/

namespace Sys2Proof.Machine

variable {s : State}

/-- `r` is the fault that the table names, or a next state where it names none. -/
def AnswersAs (o : Option Fault) (r : Result) : Prop :=
  match o with
  | some f => r = .fault f
  | none => ∃ t, r = .next t

/-- A row of the table with a condition, from the two sides of it. -/
theorem answersAs_ite {c : Prop} [Decidable c] {f : Fault} {r : Result} (hfault : c → r = .fault f)
    (hnext : ¬c → ∃ t, r = .next t) : AnswersAs (if c then some f else none) r := by
  by_cases hc : c
  · rw [if_pos hc]
    exact hfault hc
  · rw [if_neg hc]
    exact hnext hc

/-! ### The instructions with a condition -/

theorem execRet_answersAs (s : State) : AnswersAs (raised .ret s) (execRet s) := by
  refine answersAs_ite (fun hempty => execRet_of_empty (Fin.ext hempty)) fun hcalled => ?_
  obtain ⟨k, hk⟩ := Fin.exists_succ_eq.mpr fun h : s.sp = 0 => hcalled (congrArg Fin.val h)
  exact ⟨_, execRet_of_call hk.symm⟩

theorem execCall_answersAs (nnn : Addr12) (s : State) : AnswersAs (raised (.call nnn) s) (execCall nnn s) := by
  refine answersAs_ite (fun hfull => execCall_of_full nnn (Fin.ext hfull)) fun hroom => ?_
  rcases Fin.eq_castSucc_or_eq_last s.sp with ⟨k, hk⟩ | hfull
  · exact ⟨_, execCall_of_room nnn hk⟩
  · exact absurd (congrArg Fin.val hfull) hroom

theorem execSkp_answersAs (x : Reg) (s : State) : AnswersAs (raised (.skp x) s) (execSkp x s) :=
  answersAs_ite execSkp_outside fun h => ⟨_, execSkp_inside (k := ⟨(s.reg x).toNat, by omega⟩) rfl⟩

theorem execSknp_answersAs (x : Reg) (s : State) : AnswersAs (raised (.sknp x) s) (execSknp x s) :=
  answersAs_ite execSknp_outside fun h => ⟨_, execSknp_inside (k := ⟨(s.reg x).toNat, by omega⟩) rfl⟩

/-- An instruction with a bounds check raises exactly where the last address it needs is 4096 or more (R47, R181). -/
theorem withRange_answersAs {c : Prop} [Decidable c] {len : Nat} {u : State}
    (hc : c ↔ ¬(len = 0 ∨ s.index.toNat + len ≤ 4096)) :
    AnswersAs (if c then some (.invalidAddress (max s.index.toNat 4096)) else none) (withRange len s (finish u)) :=
  answersAs_ite (fun h => withRange_outside _ (hc.mp h)) fun h =>
    ⟨_, withRange_inside _ (not_not.mp fun hout => h (hc.mpr hout))⟩

/-! ### Every instruction -/

/-- LD Vx, K completes whether or not a key is down (R153). -/
theorem execLdVxK_completes (x : Reg) (s : State) : ∃ t, execLdVxK x s = .next t := by
  cases hk : firstKeyDown s with
  | some k => exact ⟨_, execLdVxK_of_some x hk⟩
  | none => exact ⟨s, execLdVxK_of_none x hk⟩

/-- The instructions of the last arm have no row in the table, and complete by computation. -/
theorem exec_answersAs_raised (i : Instr) (s : State) : AnswersAs (raised i s) (exec i s) := by
  cases i with
  | ret => exact execRet_answersAs s
  | call nnn => exact execCall_answersAs nnn s
  | skp x => exact execSkp_answersAs x s
  | sknp x => exact execSknp_answersAs x s
  | drw | ldB | storeRegs | loadRegs => exact withRange_answersAs (by omega)
  | ldVxK x => exact execLdVxK_completes x s
  | _ => exact ⟨_, rfl⟩

/-- Settles O26, one instruction at a time. -/
theorem instructionsRaiseExactlyWhereTheTableSays : Obligations.InstructionsRaiseExactlyWhereTheTableSays :=
  exec_answersAs_raised

end Sys2Proof.Machine
end

section
/-! PROOFS. The load, the warm reset and the boot order (R203 to R205): each answers a machine as the table of R27 has
it, with the image at 0x200, because the font and the program do not overlap. -/

namespace Sys2Proof.Machine

variable {s : State} {cfg : Config} {bytes rom : List Byte} {run : RunState}

/-! ### The load -/

/-- A load that fits, on a machine with none, stores the image (R204). -/
theorem load_of_rom_none (hl : bytes.length < 3585) (hr : s.rom = none) :
    load bytes s = .next (s.loadImage bytes hl) := by
  unfold load
  rw [dif_pos hl, hr]

/-- The size is checked whether or not an image is loaded (log 13). -/
theorem load_of_too_long (hl : 3584 < bytes.length) (s : State) :
    load bytes s = .fault (.sizeExceeded bytes.length) :=
  dif_neg (Nat.not_lt_of_le hl)

theorem load_of_rom_ne_none (hl : bytes.length < 3585) (hr : s.rom ≠ none) :
    load bytes s = .refused .secondLoad := by
  obtain ⟨image, hi⟩ := Option.ne_none_iff_exists'.mp hr
  unfold load
  rw [dif_pos hl, hi]

theorem byteAt_loadImage_inside (s : State) (hl : bytes.length < 3585) {k : Nat} (h : k < bytes.length) :
    (s.loadImage bytes hl).byteAt (0x200 + k) = bytes[k] :=
  memRead_memWriteBytes_inside s 0x200 k bytes h

theorem memUnchangedBut_loadImage (s : State) (hl : bytes.length < 3585) :
    MemUnchangedBut 0x200 bytes.length s (s.loadImage bytes hl) :=
  fun a ha => memRead_memWriteBytes_outside s 0x200 a bytes ha

/-- Settles O10, by the three answers of `load`; what a load leaves alone it does not write. -/
theorem loadStoresTheRomVerbatimOrFails : Obligations.LoadStoresTheRomVerbatimOrFails := by
  intro s bytes
  refine ⟨fun hl hr => ?_, fun hl => load_of_too_long hl s,
    fun hl hr => load_of_rom_ne_none (Nat.lt_succ_of_le hl) hr⟩
  have hlt : bytes.length < 3585 := Nat.lt_succ_of_le hl
  exact ⟨_, load_of_rom_none hlt hr, fun k h => byteAt_loadImage_inside s hlt h, memUnchangedBut_loadImage s hlt,
    rfl, rfl, fun _ _ => rfl, rfl, rfl, rfl, ⟨rfl, rfl⟩, ⟨rfl, rfl⟩, rfl, rfl, rfl, rfl, rfl⟩

/-! ### A machine as construction left it, under what the host does to it -/

/-- Loading replaces zeros by the image, above the font (R17, R27, R204). -/
theorem FreshWith.loadImage (h : FreshWith cfg [] run s) (hl : bytes.length < 3585) :
    FreshWith cfg bytes run (s.loadImage bytes hl) :=
  { h with
    font := fun g j => (memUnchangedBut_loadImage s hl _ (by omega)).trans (h.font g j)
    program := fun _ hk => byteAt_loadImage_inside s hl hk
    zeros := fun a hlow hhigh hout =>
      (memUnchangedBut_loadImage s hl a hout).trans (h.zeros a hlow hhigh (by simp))
    programSize := rfl }

theorem FreshWith.setRunState (h : FreshWith cfg rom run s) (run' : RunState) :
    FreshWith cfg rom run' (s.setRunState run') :=
  { h with runState := rfl }

/-- The table says nothing of the random stream (R27, log 15). -/
theorem FreshWith.setDraws (h : FreshWith cfg rom run s) (n : Nat) : FreshWith cfg rom run (s.setDraws n) :=
  { h with }

/-- A constructed machine has no image yet, so a load that fits is not refused (R204, R205). -/
theorem load_construct (cfg : Config) (hl : rom.length < 3585) :
    load rom (State.construct cfg) = .next ((State.construct cfg).loadImage rom hl) :=
  load_of_rom_none hl rfl

/-- The launch state: constructed, loaded, Running (R205). -/
def launched (cfg : Config) (rom : List Byte) (hl : rom.length < 3585) : State :=
  ((State.construct cfg).loadImage rom hl).setRunState .running

theorem freshWith_launched (cfg : Config) (hl : rom.length < 3585) :
    FreshWith cfg rom .running (launched cfg rom hl) :=
  ((freshWith_construct cfg).loadImage hl).setRunState .running

/-! ### The warm reset -/

/-- `reset()` is the boot order again, while the random stream goes on (R203, log 15). -/
theorem reset_of_rom (hr : s.rom = some bytes) (hl : bytes.length < 3585) :
    reset s = .next ((launched s.cfg bytes hl).setDraws s.draws) := by
  simp only [reset, hr, load_construct s.cfg hl, launched]

theorem reset_of_rom_none (hr : s.rom = none) : reset s = .refused .resetBeforeLoad := by
  unfold reset
  rw [hr]

/-- Settles O11: the reset answers the launch state of the same configuration and image, or is refused. -/
theorem warmResetReconstructsAndReloads : Obligations.WarmResetReconstructsAndReloads := by
  intro s
  refine ⟨fun bytes hr hl => ?_, reset_of_rom_none⟩
  have hlt : bytes.length < 3585 := Nat.lt_succ_of_le hl
  exact ⟨_, reset_of_rom hr hlt, (freshWith_launched s.cfg hlt).setDraws s.draws, rfl⟩

/-! ### The boot order -/

theorem writeRunState_of_hostArc {r : RunState} (h : hostArc s.rom.isSome s.runState r = true) :
    writeRunState r s = .next (s.setRunState r) :=
  if_pos h

theorem boot_eq_launched (hc : configWf cfg = true) (hl : rom.length < 3585) :
    boot cfg rom = .next (launched cfg rom hl) := by
  have hconstruct : construct cfg = .next (State.construct cfg) := if_pos hc
  have hrun : writeRunState .running ((State.construct cfg).loadImage rom hl) = .next (launched cfg rom hl) :=
    writeRunState_of_hostArc rfl
  simp only [boot, hconstruct, runEvents, applyEvent, hostOp, load_construct cfg hl, hrun]

/-- Settles O12: the boot order answers the launch state. -/
theorem bootEndsInTheLaunchState : Obligations.BootEndsInTheLaunchState := by
  intro cfg rom hc hl
  have hlt : rom.length < 3585 := Nat.lt_succ_of_le hl
  exact ⟨_, boot_eq_launched hc hlt, freshWith_launched cfg hlt, rfl⟩

end Sys2Proof.Machine
end
